-- ==== Sys2Proof/Word.lean ====
section
/-! DEFINITION. The data widths of the engine: a byte (the only datum width, R11, R27) and a
nibble (the op and k fields of a micro-operation word, CTL.PH and CTL.RND, R29, R82). -/

namespace Sys2Proof

/-- Eight bits: every element of S, W, RCON, RK and of device memory (R11, R27, R50). -/
abbrev Byte := BitVec 8

/-- Four bits: the fields `op` and `k` of format U (R82), CTL.PH, CTL.RND and STATUS.ERR. -/
abbrev Nibble := BitVec 4

end Sys2Proof
end

