-- ==== Sys2Proof/Machine/FunctionUnits.lean ====
section
/-! DEFINITION. The combinational function units (40_function_units.md and the pure parts of 41, 42,
43 and 44): the S-box, the GF(2^8) multiplier, the key scheduler's units, the four round
transformations as functions of a 16-byte state, and the algorithms they make (R121, R145, R146,
R160, R170). They hold no state and cannot fail (R100, R104, R108). -/

namespace Sys2Proof.Machine

/-- Byte j of a byte sequence (R12). Every use stays inside the sequence (R27). -/
def byteAt (bs : List Byte) (j : Nat) : Byte := bs.getD j 0#8

/-- xor of two equal-length byte sequences taken index by index (R13). -/
def xorBytes (a b : List Byte) : List Byte := List.zipWith (· ^^^ ·) a b

/-- The 256 entries of the S-box in index order (R101, R103). -/
def sboxTable : List Byte :=
  [0x63, 0x7C, 0x77, 0x7B, 0xF2, 0x6B, 0x6F, 0xC5, 0x30, 0x01, 0x67, 0x2B, 0xFE, 0xD7, 0xAB, 0x76] ++
  [0xCA, 0x82, 0xC9, 0x7D, 0xFA, 0x59, 0x47, 0xF0, 0xAD, 0xD4, 0xA2, 0xAF, 0x9C, 0xA4, 0x72, 0xC0] ++
  [0xB7, 0xFD, 0x93, 0x26, 0x36, 0x3F, 0xF7, 0xCC, 0x34, 0xA5, 0xE5, 0xF1, 0x71, 0xD8, 0x31, 0x15] ++
  [0x04, 0xC7, 0x23, 0xC3, 0x18, 0x96, 0x05, 0x9A, 0x07, 0x12, 0x80, 0xE2, 0xEB, 0x27, 0xB2, 0x75] ++
  [0x09, 0x83, 0x2C, 0x1A, 0x1B, 0x6E, 0x5A, 0xA0, 0x52, 0x3B, 0xD6, 0xB3, 0x29, 0xE3, 0x2F, 0x84] ++
  [0x53, 0xD1, 0x00, 0xED, 0x20, 0xFC, 0xB1, 0x5B, 0x6A, 0xCB, 0xBE, 0x39, 0x4A, 0x4C, 0x58, 0xCF] ++
  [0xD0, 0xEF, 0xAA, 0xFB, 0x43, 0x4D, 0x33, 0x85, 0x45, 0xF9, 0x02, 0x7F, 0x50, 0x3C, 0x9F, 0xA8] ++
  [0x51, 0xA3, 0x40, 0x8F, 0x92, 0x9D, 0x38, 0xF5, 0xBC, 0xB6, 0xDA, 0x21, 0x10, 0xFF, 0xF3, 0xD2] ++
  [0xCD, 0x0C, 0x13, 0xEC, 0x5F, 0x97, 0x44, 0x17, 0xC4, 0xA7, 0x7E, 0x3D, 0x64, 0x5D, 0x19, 0x73] ++
  [0x60, 0x81, 0x4F, 0xDC, 0x22, 0x2A, 0x90, 0x88, 0x46, 0xEE, 0xB8, 0x14, 0xDE, 0x5E, 0x0B, 0xDB] ++
  [0xE0, 0x32, 0x3A, 0x0A, 0x49, 0x06, 0x24, 0x5C, 0xC2, 0xD3, 0xAC, 0x62, 0x91, 0x95, 0xE4, 0x79] ++
  [0xE7, 0xC8, 0x37, 0x6D, 0x8D, 0xD5, 0x4E, 0xA9, 0x6C, 0x56, 0xF4, 0xEA, 0x65, 0x7A, 0xAE, 0x08] ++
  [0xBA, 0x78, 0x25, 0x2E, 0x1C, 0xA6, 0xB4, 0xC6, 0xE8, 0xDD, 0x74, 0x1F, 0x4B, 0xBD, 0x8B, 0x8A] ++
  [0x70, 0x3E, 0xB5, 0x66, 0x48, 0x03, 0xF6, 0x0E, 0x61, 0x35, 0x57, 0xB9, 0x86, 0xC1, 0x1D, 0x9E] ++
  [0xE1, 0xF8, 0x98, 0x11, 0x69, 0xD9, 0x8E, 0x94, 0x9B, 0x1E, 0x87, 0xE9, 0xCE, 0x55, 0x28, 0xDF] ++
  [0x8C, 0xA1, 0x89, 0x0D, 0xBF, 0xE6, 0x42, 0x68, 0x41, 0x99, 0x2D, 0x0F, 0xB0, 0x54, 0xBB, 0x16]

/-- `sbox(x)`: the entry at index x of the fixed table (R100). -/
def sbox (x : Byte) : Byte := byteAt sboxTable x.toNat

/-- `xtime(a)`: the left shift by one, with 0x1B xored in when the bit shifted out is 1 (R106). -/
def xtime (a : Byte) : Byte := if a.msb then (a <<< 1) ^^^ 0x1B#8 else a <<< 1

/-- The shift-and-reduce loop of R105, one turn per unit of the first argument: the bits of b are
scanned from the lowest, and p gathers the multiples of a. -/
def gfmulLoop : Nat → Byte → Byte → Byte → Byte
  | 0, _, _, p => p
  | n + 1, a, b, p => gfmulLoop n (xtime a) (b >>> 1) (if b.getLsbD 0 then p ^^^ a else p)

/-- `gfmul(a, b)`: the product in GF(2^8) with reduction polynomial 0x11B (R104, R105). -/
def gfmul (a b : Byte) : Byte := gfmulLoop 8 a b 0#8

/-- The product of two bytes read as polynomials over GF(2), before reduction, scanned from the
top bit of b (R104): a definition independent of the loop above. -/
def polyProduct (a b : Byte) : BitVec 16 :=
  (List.range 8).foldl
    (fun p i => if b.getLsbD i then p ^^^ (a.setWidth 16 <<< i) else p) 0#16

/-- The remainder of a polynomial of degree at most 15 modulo x^8+x^4+x^3+x+1, pattern 0x11B (R104):
from the top bit down, a set bit i is cleared by the modulus shifted to it. -/
def polyReduce (p : BitVec 16) : Byte :=
  ((List.range 8).foldl
    (fun q j => if q.getLsbD (15 - j) then q ^^^ (0x11B#16 <<< (7 - j)) else q) p).setWidth 8

/-- The affine map of the S-box's construction (R102), applied to b = inv(x). -/
def sboxAffine (b : Byte) : Byte :=
  b ^^^ b.rotateLeft 1 ^^^ b.rotateLeft 2 ^^^ b.rotateLeft 3 ^^^ b.rotateLeft 4 ^^^ 0x63#8

/-- `rotword(w)`: the byte at index 0 moves to index 3, every other one index down (R124). -/
def rotword (w : List Byte) : List Byte := [byteAt w 1, byteAt w 2, byteAt w 3, byteAt w 0]

/-- `subword(w)`: all four bytes through the S-box (R125). -/
def subword (w : List Byte) : List Byte := w.map sbox

/-- The transformation at a round-key boundary: rotword, subword, then the first byte xor the
current round constant (R123, R126). -/
def boundaryWord (w : List Byte) (rcon : Byte) : List Byte :=
  xorBytes (subword (rotword w)) [rcon, 0#8, 0#8, 0#8]

/-- The next round constant (R126). -/
def nextRcon (rcon : Byte) : Byte := gfmul rcon 0x02#8

/-- SubBytes (R141). -/
def subBytes (s : List Byte) : List Byte := s.map sbox

/-- ShiftRows (R142): row r, column c takes old row r, column (c + r) mod 4; index j is in row
j mod 4, column j div 4 (R12). -/
def shiftRows (s : List Byte) : List Byte :=
  (List.range 16).map fun j => byteAt s (j % 4 + 4 * ((j / 4 + j % 4) % 4))

/-- One output byte of MixColumns: row r of the column that starts at index c (R143). -/
def mixByte (s : List Byte) (c r : Nat) : Byte :=
  gfmul 0x02#8 (byteAt s (c + r)) ^^^ gfmul 0x03#8 (byteAt s (c + (r + 1) % 4)) ^^^
    byteAt s (c + (r + 2) % 4) ^^^ byteAt s (c + (r + 3) % 4)

/-- MixColumns (R143). -/
def mixColumns (s : List Byte) : List Byte :=
  (List.range 16).map fun j => mixByte s (4 * (j / 4)) (j % 4)

/-- AddRoundKey with a 16-byte round key (R144). -/
def addRoundKey (s k : List Byte) : List Byte := xorBytes s k

/-- RK{k}, round key k of a schedule (R12). -/
def roundKey (rk : List Byte) (k : Nat) : List Byte := (rk.drop (16 * k)).take 16

/-- One turn of the key expansion of R121: the next 4 bytes, at position p = the bytes so far. -/
def keyexpTurn (rk : List Byte) (rcon : Byte) : List Byte × Byte :=
  let p := rk.length
  let w := (rk.drop (p - 4)).take 4
  let back := (rk.drop (p - 16)).take 4
  if p % 16 = 0 then (rk ++ xorBytes (boundaryWord w rcon) back, nextRcon rcon)
  else (rk ++ xorBytes w back, rcon)

/-- n turns of the key expansion. -/
def keyexpTurns : Nat → List Byte → Byte → List Byte
  | 0, rk, _ => rk
  | n + 1, rk, rcon => keyexpTurns n (keyexpTurn rk rcon).1 (keyexpTurn rk rcon).2

/-- `keyexp(key)`: the 176-byte schedule of a 16-byte key (R121). -/
def keyexp (key : List Byte) : List Byte := keyexpTurns 40 key 0x01#8

/-- A full round (R145). -/
def fullRound (s k : List Byte) : List Byte := addRoundKey (mixColumns (shiftRows (subBytes s))) k

/-- The final round, with no MixColumns (R146). -/
def finalRound (s k : List Byte) : List Byte := addRoundKey (shiftRows (subBytes s)) k

/-- `encblock(s, rk)`: whitening, nine full rounds, the final round (R160). -/
def encblock (s rk : List Byte) : List Byte :=
  let s1 := addRoundKey s (roundKey rk 0)
  let s9 := (List.range 9).foldl (fun t k => fullRound t (roundKey rk (k + 1))) s1
  finalRound s9 (roundKey rk 10)

/-- CBC over the blocks of a call (R170, R178): each block is the encryption of the plaintext block
xor the chain input, which is the IV first and then the previous ciphertext block. -/
def cbcBlocks (rk : List Byte) : List Byte → List (List Byte) → List (List Byte)
  | _, [] => []
  | chain, p :: ps =>
    let c := encblock (xorBytes p chain) rk
    c :: cbcBlocks rk c ps

end Sys2Proof.Machine
end

