-- ==== Sys2Proof/Syntax.lean ====
section
/-! DEFINITION. The syntax: one constructor per row of spec/opcode_table.json. The first is the
one host command (format H, R84), the other ten are the micro-operations (format U, R83). -/

namespace Sys2Proof

/-- The host command and the ten micro-operations (R83, R84). Only ARK has an operand in its
word: k, the round-key index (R85); every other operand is implicit. -/
inductive Instr where
  /-- ENCRYPT, the host command: starts a call (R84, R171). -/
  | encrypt
  /-- CHK: validates the descriptor, latches NBLK (R176). -/
  | chk
  /-- KLD: copies the key into round key 0 (R122). -/
  | kld
  /-- KXW: derives the next 4 bytes of the schedule (R123). -/
  | kxw
  /-- CBX: loads plaintext block BLK xor the chain input (R172). -/
  | cbx
  /-- ARK k: AddRoundKey with round key k, k in 0..10 (R144). -/
  | ark (k : Nibble)
  /-- SUB: SubBytes (R141). -/
  | sub
  /-- SHR: ShiftRows (R142). -/
  | shr
  /-- MIX: MixColumns (R143). -/
  | mix
  /-- BST: stores ciphertext block BLK, with the completion barrier (R173). -/
  | bst
  /-- FIN: ends the call and discards key material (R177). -/
  | fin
  deriving DecidableEq, Repr

end Sys2Proof
end

