-- ==== Sys2Proof/WellFormed.lean ====
section
/-! DEFINITION. Well-formed instructions: the operand k of ARK is in 0..10 (R83, R85); no other
instruction carries an operand. -/

namespace Sys2Proof

/-- The check on the only explicit operand: k of ARK is 0..10; 11..15 are reserved (R88). -/
def Instr.wf : Instr → Bool
  | .ark k => k.toNat ≤ 10
  | .encrypt | .chk | .kld | .kxw | .cbx | .sub | .shr | .mix | .bst | .fin => true

end Sys2Proof
end

