-- ==== Sys2Proof/Decode.lean ====
section
/-! DEFINITION. The two 8-bit formats (R81, R82): the op codes, which are also the phase codes of
CTL.PH (R30), the decoders, total on all 256 words of each format and rejecting by name (R88), and
after them the encoder. -/

namespace Sys2Proof

/-- Op code and phase IDLE (R30); no micro-operation. -/
abbrev Op.idle : Nibble := 0x0#4
/-- Op code and phase of CHK (R30, R83). -/
abbrev Op.chk : Nibble := 0x1#4
/-- Op code and phase of KLD (R30, R83). -/
abbrev Op.kld : Nibble := 0x2#4
/-- Op code and phase of KXW (R30, R83). -/
abbrev Op.kxw : Nibble := 0x3#4
/-- Op code and phase of CBX (R30, R83). -/
abbrev Op.cbx : Nibble := 0x4#4
/-- Op code and phase of ARK (R30, R83). -/
abbrev Op.ark : Nibble := 0x5#4
/-- Op code and phase of SUB (R30, R83). -/
abbrev Op.sub : Nibble := 0x6#4
/-- Op code and phase of SHR (R30, R83). -/
abbrev Op.shr : Nibble := 0x7#4
/-- Op code and phase of MIX (R30, R83). -/
abbrev Op.mix : Nibble := 0x8#4
/-- Op code and phase of BST (R30, R83). -/
abbrev Op.bst : Nibble := 0x9#4
/-- Op code and phase of FIN (R30, R83). -/
abbrev Op.fin : Nibble := 0xA#4

/-- Why a word is rejected (R88): both reasons are the spec's reserved encodings. -/
inductive Reject where
  /-- A reserved format-U word; performing one is the fault IllegalPhase. -/
  | reservedWord
  /-- A format-H word with any of bits 7:1 set; writing one is refused, ReservedCommand. -/
  | reservedCommand
  deriving DecidableEq, Repr

/-- The field `op`, bits 7:4 of a format-U word (R82). -/
def opField (w : Byte) : Nibble := w.extractLsb' 4 4

/-- The field `k`, bits 3:0 of a format-U word (R82). -/
def kField (w : Byte) : Nibble := w.extractLsb' 0 4

/-- The format-U word with fields `op` and `k` (R82). -/
def microWord (op k : Nibble) : Byte := op ++ k

/-- A micro-operation whose word has k = 0; any other k is reserved (R88). -/
def plainMicro (i : Instr) (k : Nibble) : Except Reject Instr :=
  if k = 0#4 then .ok i else .error .reservedWord

/-- The decoder of format U, total on all 256 words (R83, R88): exactly 20 are valid. -/
def decodeMicro (w : Byte) : Except Reject Instr :=
  let k := kField w
  match (opField w).toNat with
  | 0x1 => plainMicro .chk k
  | 0x2 => plainMicro .kld k
  | 0x3 => plainMicro .kxw k
  | 0x4 => plainMicro .cbx k
  | 0x5 => if k.toNat ≤ 10 then .ok (.ark k) else .error .reservedWord
  | 0x6 => plainMicro .sub k
  | 0x7 => plainMicro .shr k
  | 0x8 => plainMicro .mix k
  | 0x9 => plainMicro .bst k
  | 0xA => plainMicro .fin k
  | _ => .error .reservedWord

/-- The decoder of format H, the values written to CTRL (R34, R84, R88): 0x00 is the no-operation
(`none`), 0x01 is ENCRYPT, every other word is reserved. -/
def decodeCommand (w : Byte) : Except Reject (Option Instr) :=
  match w.toNat with
  | 0x00 => .ok none
  | 0x01 => .ok (some .encrypt)
  | _ => .error .reservedCommand

/-- One decoder over both formats: the words of the table with op = 0 are format H (all format-U
words with op = 0 are reserved), the others format U. -/
def decode (w : Byte) : Except Reject Instr :=
  if opField w = Op.idle then
    match decodeCommand w with
    | .ok (some i) => .ok i
    | .ok none => .error .reservedWord
    | .error r => .error r
  else decodeMicro w

/-- The encoder, from the patterns of R83 and R84. -/
def encode : Instr → Byte
  | .encrypt => 0x01#8
  | .chk => microWord Op.chk 0#4
  | .kld => microWord Op.kld 0#4
  | .kxw => microWord Op.kxw 0#4
  | .cbx => microWord Op.cbx 0#4
  | .ark k => microWord Op.ark k
  | .sub => microWord Op.sub 0#4
  | .shr => microWord Op.shr 0#4
  | .mix => microWord Op.mix 0#4
  | .bst => microWord Op.bst 0#4
  | .fin => microWord Op.fin 0#4

/-- What the decoder reads from an instruction word given as a number: every word is 8 bits long
and there is no other length (R81, R89), so a wider number is no instruction. -/
def decodeTableWord (nbits w : Nat) : Option Instr :=
  if nbits ≤ 8 ∧ w < 256 then
    match decode (BitVec.ofNat 8 w) with
    | .ok i => some i
    | .error _ => none
  else none

end Sys2Proof
end

