-- ==== Sys2Proof/Config.lean ====
section
/-! DEFINITION. What an implementation fixes (the open parameters of R10), and the free values:
opaque functions with no body, so that no proof can know one of their values. -/

namespace Sys2Proof

/-- The open parameters of R10 that one engine has. They are plain data in State (no step changes
them), so a statement about every state is a statement about every width (log 2). -/
structure Config where
  /-- ADDR_W: bits of a byte address; addresses are the naturals below 2^ADDR_W. -/
  addrW : Nat
  /-- LEN_W: bits of a length register; lengths are the naturals below 2^LEN_W. -/
  lenW : Nat
  deriving DecidableEq, Repr

/-- The constraints R10 puts on the open parameters: ADDR_W at least 8, LEN_W at least 5. -/
abbrev Config.Ok (c : Config) : Prop := 8 ≤ c.addrW ∧ 5 ≤ c.lenW

/-- Free value (log 5): the byte the n-th draw leaves in memory where the spec says any byte
(R55, R177: scratch; R203: the ciphertext region after ENV_FAIL; R231: after a reset in a call). -/
opaque Config.freeByte : Nat → Byte

/-- Free value (log 3): the byte that address a has held since power-on, while nothing has written it.
R50 gives every address a byte, and no rule says which. -/
opaque Config.powerOnByte : Nat → Byte

/-- Free value (log 9): what the engine reads from descriptor register r, after d draws, while
nothing has written it since reset; no rule gives it, and no call reaches such a read (R171). -/
opaque Config.unwrittenDesc (r d : Nat) : Nat

/-- Free value (log 6): what the n-th draw returns to a host read whose value the spec leaves
open (R42: a descriptor register not yet written; log 7: one read while BUSY is 1). -/
opaque Config.freeWord : Nat → Nat

end Sys2Proof
end

