-- ==== Sys2Proof/Machine/State.lean ====
section
/-! DEFINITION. The machine's state: exactly the record of R20 and the device memory of R50, and
three fields of the model's own (the free-draw counter, the last value a host read returned, and
the host's moves still to come). Then its reset (R42) and the ways a step can stop (R214). -/

namespace Sys2Proof.Machine

/-- A byte-indexed register group (R26). An element is `none` while it HOLDS NO VALUE, which is
the spec's own state of a register byte (R28, R40, R42), not a missing reset value (log 1). -/
abbrev ByteFile := List (Option Byte)

/-- Device memory (R50): (address, byte) pairs, addresses strictly rising, one for each address
written since power-on. An unlisted address holds the byte it held at power-on, a free value
(log 3). -/
abbrev Memory := List Host.Cell

/-- One move of the host, the second agent (R15, R180). The host's choices (which move, and in which
gap between two micro-operations) are the list of these that State holds. -/
inductive HostMove where
  /-- The host does nothing; the engine takes its own next step. -/
  | run
  /-- `WR <register>, <value>`: a write to a host-interface register by number (R33, R90). -/
  | writeReg (r v : Nat)
  /-- `RD <register>`: a read of a host-interface register by number (R33, R90). -/
  | readReg (r : Nat)
  /-- `MEM <address>: <bytes>`: the host places bytes in device memory (R90, R180). -/
  | writeMem (a : Nat) (bs : List Byte)
  /-- The host reads one byte of device memory, as when it collects the ciphertext (R180). -/
  | readMem (a : Nat)
  /-- The host drives the ENV_FAIL input to a level (R38, R211). -/
  | envFail (level : Bool)
  /-- The host asserts the reset input (R230, R231). -/
  | reset
  deriving DecidableEq, Repr

/-- The state of one engine instance (R20), device memory (R50) and the model's own three fields. -/
structure State where
  /-- ADDR_W and LEN_W (R10): fixed for the machine, changed by no step. -/
  cfg : Config
  /-- S, the state register, 16 bytes, column-major (R21). -/
  regS : ByteFile
  /-- W, the rolling word, 4 bytes (R23). -/
  regW : ByteFile
  /-- RCON, the round-constant register, 1 byte (R24). -/
  rcon : Option Byte
  /-- RK, the round-key store, 176 bytes (R22). -/
  rk : ByteFile
  /-- CTL.PH, the phase, 4 bits (R29, R30). -/
  ph : Nibble
  /-- CTL.BLK, the block index, LEN_W-4 bits (R29). -/
  blk : Nat
  /-- CTL.RND, the round number, 4 bits (R29). -/
  rnd : Nibble
  /-- CTL.KPOS, the byte position of the next schedule word, 8 bits (R29). -/
  kpos : Byte
  /-- NBLK, the block-count latch, LEN_W-4 bits (R31). -/
  nblk : Option Nat
  /-- RKV: RK holds a complete schedule (R32). -/
  rkv : Bool
  /-- STATUS.BUSY (R32, R35). -/
  busy : Bool
  /-- STATUS.DONE (R32, R35). -/
  done : Bool
  /-- STATUS.ERR, 4 bits (R32, R35, R204). -/
  err : Nibble
  /-- PT_ADDR, register 2, ADDR_W bits (R33, R36). -/
  ptAddr : Option Nat
  /-- PT_LEN, register 3, LEN_W bits (R33, R36). -/
  ptLen : Option Nat
  /-- KEY_ADDR, register 4, ADDR_W bits (R33, R36). -/
  keyAddr : Option Nat
  /-- KEY_LEN, register 5, LEN_W bits (R33, R36). -/
  keyLen : Option Nat
  /-- IV_ADDR, register 6, ADDR_W bits (R33, R36). -/
  ivAddr : Option Nat
  /-- IV_LEN, register 7, LEN_W bits (R33, R36). -/
  ivLen : Option Nat
  /-- CT_ADDR, register 8, ADDR_W bits (R33, R36). -/
  ctAddr : Option Nat
  /-- The level of the ENV_FAIL input, driven by the host (R38). -/
  envFail : Bool
  /-- Device memory (R50). -/
  mem : Memory
  /-- The model's own: how many free values have been drawn (log 5). -/
  draws : Nat
  /-- The model's own: what the host's last read returned, `none` before its first (log 8). -/
  rdata : Option Nat
  /-- The model's own: the host's moves still to come, the next first (log 8). -/
  inputs : List HostMove
  deriving DecidableEq, Repr

/-- A fault: the machine stops. The first three are the model faults of R214. -/
inductive Fault where
  /-- UnwrittenRead (R28, R214, U14): a byte of S, W, RK, or RCON or NBLK, is read while it holds no
  value. Raised by KXW, ARK, SUB, SHR, MIX and BST. Safe. -/
  | unwrittenRead
  /-- ScheduleNotValid (R32, R214): CBX or ARK with RKV = 0. Safe. -/
  | scheduleNotValid
  /-- IllegalPhase (R30, R88, R214): CTL.PH is 0xB..0xF, or a reserved format-U word is to be
  performed. Raised by the sequencer and by ARK k with k above 10. Safe. -/
  | illegalPhase
  /-- KXW with CTL.KPOS outside 16, 20, ..., 172, a position R29 and R123 do not give (log 10).
  Safe. -/
  | illegalPosition
  /-- An access to an address at or above 2^ADDR_W. R50 says that it does not exist and no rule says
  what an access to it does: that it stops is the model's choice (log 24). Raised by KLD, CBX, BST,
  FIN, the ENV_FAIL event and the host's memory moves; never in a call whose launch premises hold
  (R56). Safe. -/
  | noSuchAddress
  deriving DecidableEq, Repr

/-- A refusal: no meaning for the move. All but the first are host moves the spec gives no
behaviour; each errs toward unprovable, so each is safe. -/
inductive Refusal where
  /-- An instruction whose meaning is not written yet; raised by exec's arms only. Safe. -/
  | notModelled (mnemonic : String)
  /-- ReservedCommand (R88, R214): CTRL written with any of bits 7:1 set. Safe. -/
  | reservedCommand
  /-- DescriptorUnwritten (R42, R171, R214): ENCRYPT with a descriptor register never written since
  reset. Safe. -/
  | descriptorUnwritten
  /-- LaunchPremise (R56, R214): CHK passes and a premise of BuffersOk fails. Safe. -/
  | launchPremise
  /-- BusyViolation (R243, R244, R214): ENCRYPT, or a write to registers 2 to 8, while BUSY = 1.
  Safe. -/
  | busyViolation
  /-- A host access to a register number of 9 or more, which does not exist (R33). Safe. -/
  | noSuchRegister
  /-- A host write of a value that does not fit the register's width (R33, R36; log 11). Safe. -/
  | valueTooWide
  /-- A host memory move on a region the running call owns (R67, R242): a write to any of the four
  regions or a read of the ciphertext region, scratch included, while BUSY = 1. Safe. -/
  | bufferViolation
  deriving DecidableEq, Repr

/-- The machine right after reset (R42, R230). The widths 16 and 16 are the ones the programs of
95_test_vectors.md take (log 2); memory lists nothing (log 3); ENV_FAIL is low by R42's premise. -/
def State.reset : State where
  cfg := { addrW := 16, lenW := 16 }
  regS := List.replicate 16 none
  regW := List.replicate 4 none
  rcon := none
  rk := List.replicate 176 none
  ph := 0x0#4
  blk := 0
  rnd := 0#4
  kpos := 16#8
  nblk := none
  rkv := false
  busy := false
  done := false
  err := 0#4
  ptAddr := none
  ptLen := none
  keyAddr := none
  keyLen := none
  ivAddr := none
  ivLen := none
  ctAddr := none
  envFail := false
  mem := []
  draws := 0
  rdata := none
  inputs := []

end Sys2Proof.Machine
end

