-- ==== Sys2Proof/Machine/Flags.lean ====
section
/-! DEFINITION. The flags (R32) and the STATUS register made from them (R35). The engine has no
arithmetic condition codes, so no flag is computed from data. -/

namespace Sys2Proof.Machine

/-- STATUS as the host reads it: BUSY bit 0, DONE bit 1, bits 3:2 zero, ERR bits 7:4 (R35). -/
def State.statusWord (s : State) : Byte :=
  s.err ++ (0#2 ++ (BitVec.ofBool s.done ++ BitVec.ofBool s.busy))

/-- STATUS.ERR codes (R204). -/
abbrev Err.ok : Nibble := 0#4
/-- STATUS.ERR 1 (R201, R204). -/
abbrev Err.invalidLength : Nibble := 1#4
/-- STATUS.ERR 2 (R202, R204). -/
abbrev Err.invalidKeyOrIVSize : Nibble := 2#4
/-- STATUS.ERR 3 (R203, R204). -/
abbrev Err.executionEnvironmentFailure : Nibble := 3#4

/-- The flags when a call starts (R171): ERR and DONE cleared, BUSY set. -/
def State.startFlags (s : State) : State := { s with err := Err.ok, done := false, busy := true }

/-- The flags when a call ends (R177): RKV and BUSY cleared, DONE set, ERR kept. -/
def State.endFlags (s : State) : State := { s with rkv := false, busy := false, done := true }

/-- An ENV_FAIL event can be taken: the next phase is one of KLD .. BST (R203). -/
def State.envFailWindow (s : State) : Bool := 0x2 ≤ s.ph.toNat && s.ph.toNat ≤ 0x9

/-- The call got past CHK: STATUS.ERR is 0 or 3 (R177). -/
def State.errPastChk (s : State) : Bool :=
  s.err == Err.ok || s.err == Err.executionEnvironmentFailure

/-- A call is running and CHK has passed (R231): the next phase is KLD .. BST, or FIN with an ERR
that CHK did not raise. -/
def State.pastChk (s : State) : Bool :=
  s.busy && (s.envFailWindow || (s.ph == 0xA#4 && s.errPastChk))

end Sys2Proof.Machine
end

