-- ==== Sys2Proof/Machine/Operands.lean ====
section
/-! DEFINITION. The implicit operands (R85): the seven descriptor registers (R33, R36), and the
effective addresses micro-operations make from them (R172, R173). All are natural-number sums that
never wrap (R13, R107). -/

namespace Sys2Proof.Machine

/-- The seven descriptor registers, numbers 2 to 8 (R33). -/
inductive Desc where
  | ptAddr | ptLen | keyAddr | keyLen | ivAddr | ivLen | ctAddr
  deriving DecidableEq, Repr

/-- What a descriptor register holds; `none` while it holds no value (R42). -/
def State.desc (s : State) : Desc → Option Nat
  | .ptAddr => s.ptAddr
  | .ptLen => s.ptLen
  | .keyAddr => s.keyAddr
  | .keyLen => s.keyLen
  | .ivAddr => s.ivAddr
  | .ivLen => s.ivLen
  | .ctAddr => s.ctAddr

/-- A host write to a descriptor register: it keeps the value until rewritten (R36). -/
def State.setDesc (s : State) (v : Nat) : Desc → State
  | .ptAddr => { s with ptAddr := some v }
  | .ptLen => { s with ptLen := some v }
  | .keyAddr => { s with keyAddr := some v }
  | .keyLen => { s with keyLen := some v }
  | .ivAddr => { s with ivAddr := some v }
  | .ivLen => { s with ivLen := some v }
  | .ctAddr => { s with ctAddr := some v }

/-- The width of a descriptor register: ADDR_W for an address, LEN_W for a length (R33). -/
def Desc.width (c : Config) : Desc → Nat
  | .ptAddr | .keyAddr | .ivAddr | .ctAddr => c.addrW
  | .ptLen | .keyLen | .ivLen => c.lenW

/-- The descriptor register of a register number; numbers 0 and 1 are CTRL and STATUS, and 9 and
above do not exist (R33). -/
def Desc.ofNumber : Nat → Option Desc
  | 2 => some .ptAddr
  | 3 => some .ptLen
  | 4 => some .keyAddr
  | 5 => some .keyLen
  | 6 => some .ivAddr
  | 7 => some .ivLen
  | 8 => some .ctAddr
  | _ => none

/-- All seven descriptor registers have been written since reset (R42, R171). -/
def State.descWritten (s : State) : Bool :=
  s.ptAddr.isSome && s.ptLen.isSome && s.keyAddr.isSome && s.keyLen.isSome &&
    s.ivAddr.isSome && s.ivLen.isSome && s.ctAddr.isSome

/-- The number of a descriptor register (R33). -/
def Desc.number : Desc → Nat
  | .ptAddr => 2
  | .ptLen => 3
  | .keyAddr => 4
  | .keyLen => 5
  | .ivAddr => 6
  | .ivLen => 7
  | .ctAddr => 8

/-- A descriptor register read by the engine: its value; while nothing has written it, a free number
of its width (R42; log 9). -/
def State.readDesc (s : State) (d : Desc) : Nat :=
  match s.desc d with
  | some v => v
  | none => Config.unwrittenDesc d.number s.draws % 2 ^ d.width s.cfg

/-- The address of byte 0 of block i of a buffer (R85, R172, R173). -/
def blockAddr (base i : Nat) : Nat := base + 16 * i

end Sys2Proof.Machine
end

