-- ==== Sys2Proof/Machine/Ops.lean ====
section
/-! DEFINITION. The named operations the meanings are written over: reads and writes of the byte
files (R26, R28) and of device memory (R50, R57, R58), free draws into memory (R55, R203, R231), the
launch premises (R56), raising an error (R206), the ENV_FAIL event (R203), and reset (R230, R231). -/

namespace Sys2Proof.Machine

/-- What a step answers. -/
abbrev Result := Host.Outcome State Fault Refusal

/-- Go on with the value of a read, or stop with its fault. -/
def attempt {α : Type} (e : Except Fault α) (k : α → Result) : Result :=
  match e with
  | .ok a => k a
  | .error f => .fault f

/-! Byte files. -/

/-- Read n bytes of a register group from index i; a byte that holds no value, or that the group
does not have, is the model fault UnwrittenRead, as R14, R28 and the fault table of R214 state. -/
def readFile (f : ByteFile) (i : Nat) : Nat → Except Fault (List Byte)
  | 0 => .ok []
  | n + 1 =>
    match f.getD i none with
    | none => .error .unwrittenRead
    | some b =>
      match readFile f (i + 1) n with
      | .ok bs => .ok (b :: bs)
      | .error e => .error e

/-- Write bytes into a register group from index i on (R14). -/
def writeFile (f : ByteFile) (i : Nat) : List Byte → ByteFile
  | [] => f
  | b :: bs => writeFile (f.set i (some b)) (i + 1) bs

/-- A register group all of whose bytes hold values. -/
def holding (bs : List Byte) : ByteFile := bs.map some

/-- A register group of n bytes that hold no value (R28, R40). -/
def discarded (n : Nat) : ByteFile := List.replicate n none

/-- RCON or NBLK, read: no value is the model fault UnwrittenRead, as R28 and R214 state. -/
def readReg {α : Type} (r : Option α) : Except Fault α :=
  match r with
  | some v => .ok v
  | none => .error .unwrittenRead

/-! Device memory. -/

/-- The last byte written at an address since power-on (R57); `none` if nothing has written it. -/
def Memory.read : Memory → Nat → Option Byte
  | [], _ => none
  | (c, x) :: m, a => if a = c then some x else Memory.read m a

/-- The byte an address holds (R50): the last one written there, else the free byte it has held
since power-on (log 3). -/
def Memory.byte (m : Memory) (a : Nat) : Byte :=
  match Memory.read m a with
  | some b => b
  | none => Config.powerOnByte a

/-- Store one byte, keeping the addresses strictly rising. -/
def Memory.write : Memory → Nat → Byte → Memory
  | [], a, b => [(a, b)]
  | (c, x) :: m, a, b =>
    if a < c then (a, b) :: (c, x) :: m
    else if a = c then (a, b) :: m
    else (c, x) :: Memory.write m a b

/-- The bytes held at a, a+1, ..., a+n-1, in that order (R57). -/
def Memory.bytes (m : Memory) (a : Nat) : Nat → List Byte
  | 0 => []
  | n + 1 => Memory.byte m a :: Memory.bytes m (a + 1) n

/-- Store a byte sequence at increasing addresses (R58). -/
def Memory.writeSeq (m : Memory) (a : Nat) : List Byte → Memory
  | [] => m
  | b :: bs => Memory.writeSeq (Memory.write m a b) (a + 1) bs

/-- The canonical form of memory: addresses strictly rising. (No entry can equal what `Memory.read`
gives for an unlisted address, which is `none`.) -/
abbrev Memory.wf (m : Memory) : Prop := m.Pairwise fun x y => x.1 < y.1

/-- The n addresses from a on exist: all lie below 2^ADDR_W (R50). -/
def State.addrsExist (s : State) (a n : Nat) : Bool := a + n ≤ 2 ^ s.cfg.addrW

/-- `MemRead(addr, n)` (R57), at addresses that exist (R50); at others it stops (log 24). -/
def State.memRead (s : State) (a n : Nat) : Except Fault (List Byte) :=
  if s.addrsExist a n then .ok (Memory.bytes s.mem a n) else .error .noSuchAddress

/-- `MemWrite(addr, n, v)` (R58): complete when it returns, so a later read sees it (R65); where an
address does not exist it stops and stores nothing (log 24). -/
def State.memWrite (s : State) (a : Nat) (bs : List Byte) : Except Fault State :=
  if s.addrsExist a bs.length then .ok { s with mem := Memory.writeSeq s.mem a bs }
  else .error .noSuchAddress

/-- The free bytes of n draws from draw number d on (log 5). -/
def drawBytes (d n : Nat) : List Byte := (List.range n).map fun j => Config.freeByte (d + j)

/-- `M[a] <- any byte` for the n addresses from a on: one free draw per byte (R55, R203, R231). -/
def State.spoil (s : State) (a n : Nat) : State :=
  { s with mem := Memory.writeSeq s.mem a (drawBytes s.draws n), draws := s.draws + n }

/-- The same, where an address that does not exist (R50) stops the access (log 24). -/
def State.clobber (s : State) (a n : Nat) : Except Fault State :=
  if s.addrsExist a n then .ok (s.spoil a n) else .error .noSuchAddress

/-! The launch premises. -/

/-- Two regions (base and length) share no address. -/
def disjoint (a la b lb : Nat) : Bool := la == 0 || lb == 0 || a + la ≤ b || b + lb ≤ a

/-- `BuffersOk`, premises 1 (fit) and 2 (separation) of R56, for plaintext address and length, key,
IV and ciphertext address. Premises 3 and 4 hold of every state (log 4, log 12). -/
def buffersOk (c : Config) (pt n key iv ct : Nat) : Bool :=
  pt + n ≤ 2 ^ c.addrW && ct + n + 176 ≤ 2 ^ c.addrW && key + 16 ≤ 2 ^ c.addrW &&
    iv + 16 ≤ 2 ^ c.addrW &&
    disjoint ct (n + 176) pt n && disjoint ct (n + 176) key 16 && disjoint ct (n + 176) iv 16

/-! Errors. -/

/-- `raise <Error>`, the way an error ends a call: STATUS.ERR <- e; CTL.PH <- FIN; nothing else.
Nothing is saved and there is no handler (R206). -/
def State.raise (s : State) (e : Nibble) : State := { s with err := e, ph := Op.fin }

/-- The end of an error ("trap return", R209): the next ENCRYPT command clears ERR and DONE and puts
the sequencer at CHK; there is nothing to restore (R171). -/
def State.startCall (s : State) : State :=
  { s.startFlags with ph := Op.chk, blk := 0, rnd := 0#4, kpos := 16#8 }

/-- The ENV_FAIL event (R203): every byte of the ciphertext region, data part and scratch, becomes
any byte, and error 3 is raised. -/
def envFailEvent (s : State) : Result :=
  attempt (s.clobber (s.readDesc .ctAddr) (s.readDesc .ptLen + 176)) fun s' =>
  .next (s'.raise Err.executionEnvironmentFailure)

/-! Reset. -/

/-- Every piece of engine state at its value of R42. Device memory, the parameters, the ENV_FAIL
input (log 13) and the model's own fields are not the engine's and stay. -/
def State.resetEngine (s : State) : State :=
  { State.reset with
    cfg := s.cfg, envFail := s.envFail, mem := s.mem,
    draws := s.draws, rdata := s.rdata, inputs := s.inputs }

/-- Reset asserted at any time (R230, R231): in a call that had passed CHK every byte of its
ciphertext region becomes any byte; otherwise memory is not changed (log 23). -/
def State.assertReset (s : State) : State :=
  let ct := s.readDesc .ctAddr
  if s.pastChk then
    (s.spoil ct (min (s.readDesc .ptLen + 176) (2 ^ s.cfg.addrW - ct))).resetEngine
  else s.resetEngine

end Sys2Proof.Machine
end

