-- ==== Sys2Proof/Machine/CbcController.lean ====
section
/-! DEFINITION. The CBC chaining controller's micro-operations CHK (R176), CBX (R172), BST (R173)
and FIN (R177). -/

namespace Sys2Proof.Machine

/-- CHK with valid lengths: the launch premises are checked here (R56, R176), then NBLK is latched.
-/
def chkPass (n : Nat) (s : State) : Result :=
  if buffersOk s.cfg (s.readDesc .ptAddr) n (s.readDesc .keyAddr) (s.readDesc .ivAddr)
      (s.readDesc .ctAddr) then
    .next { s with nblk := some (n / 16), ph := Op.kld }
  else .refused .launchPremise

/-- CHK (R176): InvalidLength first, then InvalidKeyOrIVSize (R205). -/
def execChk (s : State) : Result :=
  let n := s.readDesc .ptLen
  if n % 16 ≠ 0 then .next (s.raise Err.invalidLength)
  else if s.readDesc .keyLen ≠ 16 ∨ s.readDesc .ivLen ≠ 16 then
    .next (s.raise Err.invalidKeyOrIVSize)
  else chkPass n s

/-- The chain input of block i: the IV for block 0, else ciphertext block i-1, read back from
memory (R85, R172, R64). -/
def readChain (i : Nat) (s : State) : Except Fault (List Byte) :=
  s.memRead (if i = 0 then s.readDesc .ivAddr else blockAddr (s.readDesc .ctAddr) (i - 1)) 16

/-- CBX (R172): S <- plaintext block BLK xor the chain input; RND <- 0. -/
def execCbx (s : State) : Result :=
  if s.rkv then
    attempt (s.memRead (blockAddr (s.readDesc .ptAddr) s.blk) 16) fun p =>
    attempt (readChain s.blk s) fun c =>
    .next { s with regS := holding (xorBytes p c), ph := Op.ark, rnd := 0#4 }
  else .fault .scheduleNotValid

/-- BST (R173): the 16 bytes of S to ciphertext block BLK, complete before the step ends (R65); then
the next block or FIN. -/
def execBst (s : State) : Result :=
  attempt (readFile s.regS 0 16) fun b =>
  attempt (readReg s.nblk) fun n =>
  attempt (s.memWrite (blockAddr (s.readDesc .ctAddr) s.blk) b) fun s' =>
  .next { s' with
    blk := s.blk + 1, ph := if s.blk + 1 < n then Op.cbx else Op.fin }

/-- The discard at the end of a call (R40, R177): S, W, RCON, RK and NBLK hold no value. -/
def State.discard (s : State) : State :=
  { s with
    regS := discarded 16, regW := discarded 4, rcon := none, rk := discarded 176, nblk := none }

/-- The end position (R177). -/
def State.goIdle (s : State) : State :=
  { s with ph := Op.idle, blk := 0, rnd := 0#4, kpos := 16#8 }

/-- FIN's licence on the scratch region: taken when the call got past CHK (R55, R177;
log 19). -/
def finScratch (s : State) : Except Fault State :=
  if s.errPastChk then s.clobber (s.readDesc .ctAddr + s.readDesc .ptLen) 176 else .ok s

/-- FIN (R177): discard, scratch licence, BUSY <- 0, DONE <- 1, idle; ERR keeps its value. -/
def execFin (s : State) : Result :=
  attempt (finScratch s) fun s' => .next s'.discard.endFlags.goIdle

end Sys2Proof.Machine
end

