-- ==== Sys2Proof/Machine/HostCommand.lean ====
section
/-! DEFINITION. The host command ENCRYPT (R171). -/

namespace Sys2Proof.Machine

/-- ENCRYPT (R171): refused while BUSY (R243) or with a descriptor register unwritten (R42); else
the call starts. Memory and the descriptor are not touched. -/
def execEncrypt (s : State) : Result :=
  if s.busy then .refused .busyViolation
  else if s.descWritten then .next s.startCall
  else .refused .descriptorUnwritten

end Sys2Proof.Machine
end

