-- ==== Sys2Proof/Machine/KeyScheduler.lean ====
section
/-! DEFINITION. The key scheduler's micro-operations KLD (R122) and KXW (R123). -/

namespace Sys2Proof.Machine

/-- KLD (R122): round key 0 <- the 16 key bytes; RCON <- 1; RKV <- 0. -/
def execKld (s : State) : Result :=
  attempt (s.memRead (s.readDesc .keyAddr) 16) fun key =>
  .next { s with
    rkv := false, rk := writeFile s.rk 0 key, rcon := some 0x01#8, ph := Op.kxw, kpos := 16#8 }

/-- CTL.KPOS is a position KXW works at: 16, 20, ..., 172 (R29, R123). -/
def kposOk (p : Nat) : Bool := 16 ≤ p && p ≤ 172 && p % 4 == 0

/-- The word after the boundary step and the round constant after it: at p mod 16 = 0 the
transformation of R124 to R126, elsewhere both as they are (R123). -/
def kxwWord (p : Nat) (prev : List Byte) (rcon : Option Byte) :
    Except Fault (List Byte × Option Byte) :=
  if p % 16 = 0 then
    match readReg rcon with
    | .ok r => .ok (boundaryWord prev r, some (nextRcon r))
    | .error f => .error f
  else .ok (prev, rcon)

/-- The next position after KXW (R87): 4 bytes further, or, when the store is full, the first block
or FIN. NBLK is read in the last case only. -/
def kxwNext (p : Nat) (s : State) : Result :=
  if p + 4 < 176 then .next { s with kpos := BitVec.ofNat 8 (p + 4) }
  else attempt (readReg s.nblk) fun n =>
    .next { s with
      rkv := true, kpos := 176#8, blk := 0, ph := if 0 < n then Op.cbx else Op.fin }

/-- KXW (R123): derives RK[p .. p+3] at p = CTL.KPOS. -/
def execKxw (s : State) : Result :=
  let p := s.kpos.toNat
  if kposOk p then
    attempt (readFile s.rk (p - 4) 4) fun prev =>
    attempt (kxwWord p prev s.rcon) fun wr =>
    attempt (readFile s.rk (p - 16) 4) fun back =>
    let new := xorBytes wr.1 back
    kxwNext p { s with rk := writeFile s.rk p new, regW := holding new, rcon := wr.2 }
  else .fault .illegalPosition

end Sys2Proof.Machine
end

