-- ==== Sys2Proof/Machine/RoundTransform.lean ====
section
/-! DEFINITION. The round transform's micro-operations SUB (R141), SHR (R142), MIX (R143) and
ARK (R144). Each computes all 16 new bytes from the old S and then replaces S (R150). -/

namespace Sys2Proof.Machine

/-- The shape SUB, SHR and MIX share: S <- f(old S), then the given phase (R150). -/
def transformS (f : List Byte → List Byte) (next : Nibble) (s : State) : Result :=
  attempt (readFile s.regS 0 16) fun b => .next { s with regS := holding (f b), ph := next }

/-- SUB, SubBytes (R141). -/
def execSub (s : State) : Result := transformS subBytes Op.shr s

/-- SHR, ShiftRows (R142): MIX follows in a full round, ARK in the final one (R146). -/
def execShr (s : State) : Result :=
  transformS shiftRows (if s.rnd.toNat < 10 then Op.mix else Op.ark) s

/-- MIX, MixColumns (R143). -/
def execMix (s : State) : Result := transformS mixColumns Op.ark s

/-- The next position after ARK (R144): the next round, or BST after round key 10. -/
def arkNext (s : State) : State :=
  if s.rnd.toNat < 10 then { s with rnd := s.rnd + 1#4, ph := Op.sub } else { s with ph := Op.bst }

/-- ARK k, AddRoundKey with RK{k} (R144); k above 10 is a reserved word (R88), and RKV = 0 is the
fault ScheduleNotValid (R32). -/
def execArk (k : Nibble) (s : State) : Result :=
  if k.toNat ≤ 10 then
    if s.rkv then
      attempt (readFile s.regS 0 16) fun b =>
      attempt (readFile s.rk (16 * k.toNat) 16) fun key =>
      .next (arkNext { s with regS := holding (addRoundKey b key) })
    else .fault .scheduleNotValid
  else .fault .illegalPhase

end Sys2Proof.Machine
end

