-- ==== Sys2Proof/Machine/Dispatch.lean ====
section
/-! DEFINITION. The dispatch: one arm per constructor of Instr, each a direct call of its meaning. -/

namespace Sys2Proof.Machine

def exec (i : Instr) (s : State) : Host.Outcome State Fault Refusal :=
  match i with
  | .encrypt => Sys2Proof.Machine.execEncrypt s
  | .chk => Sys2Proof.Machine.execChk s
  | .kld => Sys2Proof.Machine.execKld s
  | .kxw => Sys2Proof.Machine.execKxw s
  | .cbx => Sys2Proof.Machine.execCbx s
  | .ark k => Sys2Proof.Machine.execArk k s
  | .sub => Sys2Proof.Machine.execSub s
  | .shr => Sys2Proof.Machine.execShr s
  | .mix => Sys2Proof.Machine.execMix s
  | .bst => Sys2Proof.Machine.execBst s
  | .fin => Sys2Proof.Machine.execFin s

end Sys2Proof.Machine
end

