-- ==== Sys2Proof/Machine/Sequencer.lean ====
section
/-! DEFINITION. Who moves and what the move does: the sequencer's own step (R86, R87, R203) and the
host's moves (R33 to R38, R180, R230). -/

namespace Sys2Proof.Machine

/-- The format-U word the sequencer issues at its position: op = CTL.PH and, in phase ARK,
k = CTL.RND (R30, R85, R87). -/
def State.issued (s : State) : Byte := microWord s.ph (if s.ph = Op.ark then s.rnd else 0#4)

/-- Perform a format-U word; a reserved one is the fault IllegalPhase (R88, R214). -/
def perform (w : Byte) (s : State) : Result :=
  match decodeMicro w with
  | .ok i => exec i s
  | .error _ => .fault .illegalPhase

/-- The engine's own step: idle it does nothing (R181, R230; log 14); with ENV_FAIL raised and the
next phase in KLD .. BST it takes the event (R203, R208; log 20); else it performs the word its position
issues. -/
def engineMove (s : State) : Result :=
  if s.ph = Op.idle then .next s
  else if s.envFail && s.envFailWindow then envFailEvent s
  else perform s.issued s

/-- A host write to CTRL (R34): 0x00 does nothing, 0x01 issues ENCRYPT, a word with any of bits 7:1
set is refused (R88; log 18). -/
def writeCtrl (v : Nat) (s : State) : Result :=
  if v < 256 then
    match decodeCommand (BitVec.ofNat 8 v) with
    | .ok none => .next s
    | .ok (some i) => exec i s
    | .error _ => .refused .reservedCommand
  else .refused .valueTooWide

/-- A host write to a descriptor register: refused while BUSY = 1 (R244); every value below 2^width
is legal (R36). -/
def writeDesc (d : Desc) (v : Nat) (s : State) : Result :=
  if s.busy then .refused .busyViolation
  else if v < 2 ^ d.width s.cfg then .next (s.setDesc v d)
  else .refused .valueTooWide

/-- A host write to a register by number (R33): writes to STATUS are ignored; 9 and above do not
exist. -/
def hostWriteReg (r v : Nat) (s : State) : Result :=
  match r with
  | 0 => writeCtrl v s
  | 1 => .next s
  | r' + 2 =>
    match Desc.ofNumber (r' + 2) with
    | some d => writeDesc d v s
    | none => .refused .noSuchRegister

/-- A value returned to the host. -/
def State.answer (s : State) (v : Nat) : State := { s with rdata := some v }

/-- An unspecified value of a descriptor register's width returned to the host: a free draw (R42;
log 6, log 7). -/
def State.answerFree (s : State) (d : Desc) : State :=
  { s with rdata := some (Config.freeWord s.draws % 2 ^ d.width s.cfg), draws := s.draws + 1 }

/-- A host read of a descriptor register: its value while idle; any value if it was never written
(R42), or while BUSY = 1 (log 7). -/
def readDescHost (d : Desc) (s : State) : State :=
  match s.busy, s.desc d with
  | false, some v => s.answer v
  | _, _ => s.answerFree d

/-- A host read of a register by number (R33): CTRL reads 0x00 (R34), STATUS its word (R35). -/
def hostReadReg (r : Nat) (s : State) : Result :=
  match r with
  | 0 => .next (s.answer 0x00)
  | 1 => .next (s.answer s.statusWord.toNat)
  | r' + 2 =>
    match Desc.ofNumber (r' + 2) with
    | some d => .next (readDescHost d s)
    | none => .refused .noSuchRegister

/-- The n addresses from a on share none with the region of length len that a register names. -/
def State.clearOf (s : State) (a n : Nat) (d : Desc) (len : Nat) : Bool :=
  disjoint a n (s.readDesc d) len

/-- The addresses are clear of the written region: ciphertext data part and scratch (R51, R56). -/
def State.clearOfWritten (s : State) (a n : Nat) : Bool :=
  s.clearOf a n .ctAddr (s.readDesc .ptLen + 176)

/-- The addresses are clear of the plaintext, key and IV regions (R51). -/
def State.clearOfInputs (s : State) (a n : Nat) : Bool :=
  s.clearOf a n .ptAddr (s.readDesc .ptLen) && s.clearOf a n .keyAddr 16 && s.clearOf a n .ivAddr 16

/-- The host writes device memory: not, during a call, in any of its four regions (R67, R242). -/
def hostWriteMem (a : Nat) (bs : List Byte) (s : State) : Result :=
  if s.busy && !(s.clearOfWritten a bs.length && s.clearOfInputs a bs.length) then
    .refused .bufferViolation
  else attempt (s.memWrite a bs) .next

/-- The host reads one byte of device memory: not, during a call, of the ciphertext region (R67). -/
def hostReadMem (a : Nat) (s : State) : Result :=
  if s.busy && !(s.clearOfWritten a 1) then .refused .bufferViolation
  else attempt (s.memRead a 1) fun bs => .next (s.answer (byteAt bs 0).toNat)

/-- One move: the engine's own step, or the host's (R15, R180). -/
def serve (m : HostMove) (s : State) : Result :=
  match m with
  | .run => engineMove s
  | .writeReg r v => hostWriteReg r v s
  | .readReg r => hostReadReg r s
  | .writeMem a bs => hostWriteMem a bs s
  | .readMem a => hostReadMem a s
  | .envFail level => .next { s with envFail := level }
  | .reset => .next s.assertReset

/-- The next move and the state without it: the first of the host's moves still to come, or, when
there is none, the engine's own step. -/
def nextMove (s : State) : HostMove × State :=
  match s.inputs with
  | [] => (.run, s)
  | m :: rest => (m, { s with inputs := rest })

/-! Placing one instruction word (log 15). A micro-operation is issued only inside a call the host
has prepared (R86, R180, R232), so placing one stands for that preparation and the call's progress
up to its position. Only registers that hold no value are filled. -/

/-- What the host owes before a call (R232), for each descriptor register that holds no value: one
plaintext block at 0, the key at 16, the IV at 32, the ciphertext region from 48 on. -/
def State.prepareDesc (s : State) : State :=
  { s with
    ptAddr := some (s.ptAddr.getD 0), ptLen := some (s.ptLen.getD 16),
    keyAddr := some (s.keyAddr.getD 16), keyLen := some (s.keyLen.getD 16),
    ivAddr := some (s.ivAddr.getD 32), ivLen := some (s.ivLen.getD 16),
    ctAddr := some (s.ctAddr.getD 48) }

/-- A register group whose bytes that hold no value are filled. -/
def fillFile (f : ByteFile) : ByteFile := f.map fun o => some (o.getD 0x00#8)

/-- A running call that stands at phase op: BUSY, the engine's registers holding values, the
schedule complete from CBX on, ENV_FAIL low, and the engine moving next. -/
def State.callAt (s : State) (op : Nibble) : State :=
  { s with
    regS := fillFile s.regS, regW := fillFile s.regW, rk := fillFile s.rk,
    rcon := some (s.rcon.getD 0x01#8), nblk := some (s.nblk.getD 1), rkv := 0x4 ≤ op.toNat,
    busy := true, done := false, envFail := false, ph := op, inputs := .run :: s.inputs }

/-- Put an instruction word where the very next step runs it. A word with op = 0 is format H: the
host, idle and prepared, writes it to CTRL next. A valid format-U word is the sequencer's position.
A reserved word is no position of the sequencer, so it puts a reserved phase there, which faults as
the word would (R88). -/
def placeWord (w : Byte) (s : State) : State :=
  let s := s.prepareDesc
  if opField w = Op.idle then
    { s with busy := false, inputs := .writeReg 0 w.toNat :: s.inputs }
  else
    match decodeMicro w with
    | .ok (.ark k) => { s.callAt Op.ark with rnd := k }
    | .ok _ => s.callAt (opField w)
    | .error _ => s.callAt 0xF#4

end Sys2Proof.Machine
end

