-- ==== Sys2Proof/Machine/Step.lean ====
section
/-! DEFINITION. One step of the machine, and where the next instruction is placed. -/

namespace Sys2Proof.Machine

/-- One step: the next move of the two agents (R15). -/
def step (s : State) : Host.Outcome State Fault Refusal :=
  serve (nextMove s).1 (nextMove s).2

/-- The state with an instruction word placed where the next step runs it. -/
def State.withFetchWord (s : State) (_nbits w : Nat) : State := placeWord (BitVec.ofNat 8 w) s

end Sys2Proof.Machine
end

