-- ==== Sys2Proof/Safety.lean ====
section
/-! DEFINITION. What a safe run is, in the terms the statements use: the shape every state keeps, and
the invariant that ties the sequencer's position to what the registers hold, under which no model
fault of R214 can be raised by the engine. -/

namespace Sys2Proof.Machine

/-- The seven descriptor registers. -/
def Desc.all : List Desc := [.ptAddr, .ptLen, .keyAddr, .keyLen, .ivAddr, .ivLen, .ctAddr]

/-- Every byte of a register group holds a value. -/
abbrev allHeld (f : ByteFile) : Prop := ∀ o ∈ f, o.isSome = true

/-- The shape of the state: the open parameters are legal (R10), the register groups have their
sizes (R20), memory is in its canonical form and inside the address space (R50), and every
descriptor register holds a number below 2^width (R36). -/
structure Shape (s : State) : Prop where
  cfg_ok : s.cfg.Ok
  regS_len : s.regS.length = 16
  regW_len : s.regW.length = 4
  rk_len : s.rk.length = 176
  mem_wf : Memory.wf s.mem
  mem_bound : ∀ c ∈ s.mem, c.1 < 2 ^ s.cfg.addrW
  desc_bound : ∀ d ∈ Desc.all, ∀ v ∈ s.desc d, v < 2 ^ d.width s.cfg

/-- The descriptor of a call that passed CHK: valid lengths (R176) and the launch premises (R56). -/
def State.launched (s : State) : Bool :=
  match s.ptAddr, s.ptLen, s.keyAddr, s.keyLen, s.ivAddr, s.ivLen, s.ctAddr with
  | some pt, some n, some key, some kl, some iv, some il, some ct =>
    n % 16 == 0 && kl == 16 && il == 16 && buffersOk s.cfg pt n key iv ct
  | _, _, _, _, _, _, _ => false

/-- Two regions (base and length) share no address, said address by address (R56, premise 2). -/
def Separate (a la b lb : Nat) : Prop := ∀ x, a ≤ x ∧ x < a + la → ¬ (b ≤ x ∧ x < b + lb)

/-- Premises 1 (fit) and 2 (separation) of R56 as the rule words them. -/
def LaunchPremises (c : Config) (pt n key iv ct : Nat) : Prop :=
  (pt + n ≤ 2 ^ c.addrW ∧ ct + n + 176 ≤ 2 ^ c.addrW ∧ key + 16 ≤ 2 ^ c.addrW ∧
    iv + 16 ≤ 2 ^ c.addrW) ∧
  Separate ct (n + 176) pt n ∧ Separate ct (n + 176) key 16 ∧ Separate ct (n + 176) iv 16

/-- Every byte of memory outside the n addresses from a on reads in t as in s (the byte last written
there, so the byte the address holds too). -/
def UnchangedOutside (s t : State) (a n : Nat) : Prop :=
  ∀ x, x < a ∨ a + n ≤ x → Memory.read t.mem x = Memory.read s.mem x

/-- Every byte of memory reads in t as in s. -/
def UnchangedMemory (s t : State) : Prop := ∀ x, Memory.read t.mem x = Memory.read s.mem x

/-- The engine moves next: no host move is due, or the host's next move is to let it run (log 8). -/
def EngineTurn (s : State) : Prop := s.inputs = [] ∨ s.inputs.head? = some .run

/-- The words of ENCBLK, in order (R160). -/
def encblkWords : List Byte :=
  0x50#8 :: ((List.range 9).flatMap fun k => [0x60#8, 0x70#8, 0x80#8, BitVec.ofNat 8 (0x51 + k)]) ++
    [0x60#8, 0x70#8, 0x5A#8]

/-- The words of a valid call of n blocks, in order (R86). -/
def callWords (n : Nat) : List Byte :=
  [0x10#8, 0x20#8] ++ List.replicate 40 0x30#8 ++
    (List.replicate n ([0x40#8] ++ encblkWords ++ [0x90#8])).flatten ++ [0xA0#8]

/-- A call the host has prepared and started, as R178 and R232 take it: the sequencer at CHK, no host
move due, ENV_FAIL low, a valid descriptor with the launch premises, and the key bytes kb, the IV
bytes ivb and the plaintext blocks ps in their regions. -/
structure CallReady (s : State) (pt n key iv ct : Nat) (kb ivb : List Byte)
    (ps : List (List Byte)) : Prop where
  at_chk : s.ph = Op.chk
  no_move : s.inputs = []
  no_envFail : s.envFail = false
  ptAddr : s.ptAddr = some pt
  ptLen : s.ptLen = some n
  keyAddr : s.keyAddr = some key
  keyLen : s.keyLen = some 16
  ivAddr : s.ivAddr = some iv
  ivLen : s.ivLen = some 16
  ctAddr : s.ctAddr = some ct
  whole_blocks : n % 16 = 0
  premises : LaunchPremises s.cfg pt n key iv ct
  key_bytes : Memory.bytes s.mem key 16 = kb
  iv_bytes : Memory.bytes s.mem iv 16 = ivb
  n_blocks : ps.length = n / 16
  pt_bytes : ∀ i < n / 16, ps[i]? = some (Memory.bytes s.mem (pt + 16 * i) 16)

/-- The position is past CHK: the next phase is KLD .. BST, or FIN not reached from CHK. -/
def State.pastChkPos (s : State) : Bool :=
  s.envFailWindow || (s.ph == 0xA#4 && s.errPastChk)

/-- What the sequencer's position says of the rest of the state, in the fixed order of R86. -/
structure Consistent (s : State) : Prop where
  /-- Only the phases of R30 are taken. -/
  ph_le : s.ph.toNat ≤ 0xA
  /-- RND is 0 .. 10 (R29, R161). -/
  rnd_le : s.rnd.toNat ≤ 10
  /-- KPOS is 16, 20, ..., 176 (R29). -/
  kpos_ok : 16 ≤ s.kpos.toNat ∧ s.kpos.toNat ≤ 176 ∧ s.kpos.toNat % 4 = 0
  /-- BUSY is 1 from the ENCRYPT command until FIN (R35). -/
  busy_iff : s.busy = true ↔ s.ph ≠ Op.idle
  /-- BUSY and DONE are never both 1 (R35). -/
  not_both : ¬ (s.busy = true ∧ s.done = true)
  /-- ERR is 0 .. 3 (R204). -/
  err_le : s.err.toNat ≤ 3
  /-- No error is latched before FIN is next (R35, R206), nor before the first call (R42). -/
  err_zero : (s.ph ≠ Op.idle ∧ s.ph ≠ Op.fin) ∨ (s.busy = false ∧ s.done = false) → s.err = 0#4
  /-- Idle, the position is (IDLE, 0, 0, 16) (R177, R42). -/
  idle_pos : s.ph = Op.idle → s.blk = 0 ∧ s.rnd = 0#4 ∧ s.kpos = 16#8
  /-- Every descriptor register is written before a call (R171). -/
  desc_written : s.ph ≠ Op.idle → s.descWritten = true
  /-- A call past CHK has a valid descriptor and its launch premises (R176, R56). -/
  launched : s.pastChkPos = true → s.launched = true
  /-- NBLK = PT_LEN div 16 once CHK has passed (R31). -/
  nblk_eq : s.envFailWindow = true → s.nblk = s.ptLen.map (· / 16)
  /-- Before KLD the data registers hold no value (R40, R42, R122). -/
  data_none : s.ph.toNat ≤ 2 →
    s.regS = discarded 16 ∧ s.regW = discarded 4 ∧ s.rcon = none ∧ s.rk = discarded 176
  /-- Before CHK has passed NBLK holds no value (R40, R42). -/
  nblk_none : s.ph.toNat ≤ 1 → s.nblk = none
  /-- In phase KXW the store is filled up to KPOS and RCON holds a value (R123). -/
  kxw_ready : s.ph = Op.kxw →
    s.kpos.toNat ≤ 172 ∧ s.rcon.isSome = true ∧ allHeld (s.rk.take s.kpos.toNat)
  /-- RKV is 1 only while RK holds a complete schedule (R32), and from CBX on it is 1. -/
  rkv_held : s.rkv = true → allHeld s.rk ∧ 4 ≤ s.ph.toNat
  blocks_rkv : 4 ≤ s.ph.toNat ∧ s.ph.toNat ≤ 9 → s.rkv = true
  /-- While a block is processed its index is below NBLK; before, it is 0 (R29, R87). -/
  blk_lt : 4 ≤ s.ph.toNat ∧ s.ph.toNat ≤ 9 → ∀ n ∈ s.nblk, s.blk < n
  blk_zero : s.ph.toNat ≤ 3 → s.blk = 0
  /-- From ARK 0 to BST all of S holds values (R172). -/
  regS_held : 5 ≤ s.ph.toNat ∧ s.ph.toNat ≤ 9 → allHeld s.regS
  /-- The round number in the phases of a round (R161). -/
  round_pos : s.ph = Op.sub ∨ s.ph = Op.shr ∨ s.ph = Op.mix → 1 ≤ s.rnd.toNat
  mix_not_last : s.ph = Op.mix → s.rnd.toNat ≤ 9
  bst_last : s.ph = Op.bst → s.rnd = 10#4

/-- The invariant of the machine. -/
structure Inv (s : State) : Prop where
  shape : Shape s
  consistent : Consistent s

/-- The legal values of STATUS (R35). -/
def legalStatus : List Byte :=
  [0x00#8, 0x01#8, 0x11#8, 0x21#8, 0x31#8, 0x02#8, 0x12#8, 0x22#8, 0x32#8]

end Sys2Proof.Machine
end

