-- ==== Sys2Proof/Certificates/Slice0/Obligations.lean ====
section
/-! DEFINITION. The statements for the provers, from the numbered rules of spec/, file by file. -/

open Sys2Proof Sys2Proof.Machine

/-! Encodings (30_encoding.md). -/

/-- Decode and encode agree: decoding the word of a well-formed instruction gives the instruction
back, with its operand at every value the encoding admits. -/
def Obligations.DecodeEncodeRoundTrip : Prop :=
  ∀ i : Instr, i.wf = true → decode (encode i) = .ok i

/-- The other direction: a word that decodes is the word of the instruction it decodes to, which is
well-formed; so each word has one meaning. -/
def Obligations.DecodedWordEncodesBack : Prop :=
  ∀ (w : Byte) (i : Instr), decode w = .ok i → encode i = w ∧ i.wf = true

/-- R83: the ten patterns, written out from the table; ARK at every k of its range. -/
def Obligations.MicroOperationPatterns : Prop :=
  decodeMicro 0b00010000#8 = .ok .chk ∧ decodeMicro 0b00100000#8 = .ok .kld ∧
  decodeMicro 0b00110000#8 = .ok .kxw ∧ decodeMicro 0b01000000#8 = .ok .cbx ∧
  (∀ k : Nibble, k.toNat ≤ 10 → decodeMicro (0b0101#4 ++ k) = .ok (.ark k)) ∧
  decodeMicro 0b01100000#8 = .ok .sub ∧ decodeMicro 0b01110000#8 = .ok .shr ∧
  decodeMicro 0b10000000#8 = .ok .mix ∧ decodeMicro 0b10010000#8 = .ok .bst ∧
  decodeMicro 0b10100000#8 = .ok .fin

/-- R88: in every state, a reserved format-U word is rejected and performing it is the fault
IllegalPhase (ARK with a reserved k too), and a write to CTRL with any of bits 7:1 set is refused as
ReservedCommand. That it is so also while BUSY = 1, where R214 lists BusyViolation too, is the model's
choice (log 18). -/
def Obligations.ReservedEncodingsStop : Prop :=
  ∀ s : State,
    (∀ w : Byte,
      (w.extractLsb' 4 4 = 0x0#4 ∨ 0xB ≤ (w.extractLsb' 4 4).toNat ∨
        (w.extractLsb' 4 4 = 0x5#4 ∧ 11 ≤ (w.extractLsb' 0 4).toNat) ∨
        (w.extractLsb' 4 4 ≠ 0x5#4 ∧ w.extractLsb' 0 4 ≠ 0x0#4)) →
      decodeMicro w = .error .reservedWord ∧ perform w s = .fault .illegalPhase) ∧
    (∀ k : Nibble, 11 ≤ k.toNat → exec (.ark k) s = .fault .illegalPhase) ∧
    (∀ v : Nat, 2 ≤ v → v < 256 → hostWriteReg 0 v s = .refused .reservedCommand)

/-! The step. -/

/-- A step runs the decoded instruction: when the engine moves next (no host move is due, or the
host's next move is to let it run), is not idle and no ENV_FAIL event is taken, the step is exec of
the instruction the word at the sequencer's position decodes to, in the state without that move; and
when the host's next move is to write 0x01 to CTRL, the step is exec of ENCRYPT. Idle, the engine's step
changes nothing (the model's choice for R181's no enabled step, log 14); a move that drives ENV_FAIL
sets its level. That who moves next is the list of the host's moves is the model's choice (log 8). -/
def Obligations.StepRunsDecodedInstruction : Prop :=
  ∀ (s : State) (i : Instr) (rest : List HostMove),
    (s.ph ≠ Op.idle → (s.envFail && s.envFailWindow) = false →
      decodeMicro (s.ph ++ (if s.ph = 0x5#4 then s.rnd else 0#4)) = .ok i →
      (s.inputs = [] → step s = exec i s) ∧
      step { s with inputs := .run :: rest } = exec i { s with inputs := rest }) ∧
    step { s with inputs := .writeReg 0 1 :: rest } = exec .encrypt { s with inputs := rest } ∧
    (s.ph = Op.idle → s.inputs = [] → step s = .next s) ∧
    (∀ level, step { s with inputs := .envFail level :: rest } =
      .next { s with inputs := rest, envFail := level })

/-- The word of a well-formed instruction, placed, is what the very next step runs, in every state
(the model's own placing, log 15). -/
def Obligations.PlacedWordRunsNext : Prop :=
  ∀ (s : State) (i : Instr), i.wf = true →
    step (s.withFetchWord 8 (encode i).toNat) =
      exec i { s.withFetchWord 8 (encode i).toNat with inputs := s.inputs }

/-! Function units (40_function_units.md). -/

/-- R104: gfmul is the product of the two bytes as polynomials over GF(2), reduced modulo 0x11B. -/
def Obligations.GfmulIsReducedProduct : Prop :=
  ∀ a b : Byte, gfmul a b = polyReduce (polyProduct a b)

/-- The gfmul rows of R107's table (marked there as derived) but associativity, which is
GfmulAssociative, and the products by 0x02 and 0x03 of R106 (40_function_units.md section 2). -/
def Obligations.GfmulLaws : Prop :=
  (∀ a b : Byte, gfmul a b = gfmul b a) ∧
  (∀ a b c : Byte, gfmul a (b ^^^ c) = gfmul a b ^^^ gfmul a c) ∧
  (∀ a : Byte, gfmul a 0x00#8 = 0x00#8 ∧ gfmul 0x00#8 a = 0x00#8 ∧ gfmul a 0x01#8 = a ∧
    gfmul a 0x02#8 = xtime a ∧ gfmul a 0x03#8 = xtime a ^^^ a) ∧
  (∀ a b : Byte, gfmul a b = 0x00#8 → a = 0x00#8 ∨ b = 0x00#8) ∧
  gfmul 0xFF#8 0xFF#8 = 0x13#8

/-- The associativity law of R107 (marked there as derived). -/
def Obligations.GfmulAssociative : Prop :=
  ∀ a b c : Byte, gfmul (gfmul a b) c = gfmul a (gfmul b c)

/-- R102: every nonzero byte has exactly one inverse, the table entry is the affine map of the
inverse, sbox is a bijection, and it has the values and the two absences the rule lists. -/
def Obligations.SboxMatchesConstruction : Prop :=
  (∀ x : Byte, x ≠ 0x00#8 → ∃ y, gfmul x y = 0x01#8 ∧ (∀ z, gfmul x z = 0x01#8 → z = y) ∧
    sbox x = sboxAffine y) ∧
  sbox 0x00#8 = sboxAffine 0x00#8 ∧ Function.Bijective sbox ∧
  sbox 0x00#8 = 0x63#8 ∧ sbox 0x01#8 = 0x7C#8 ∧ sbox 0xFF#8 = 0x16#8 ∧ sbox 0x52#8 = 0x00#8 ∧
  (∀ x : Byte, sbox x ≠ x ∧ sbox x ≠ x ^^^ 0xFF#8)

/-! The key scheduler (41_key_scheduler.md). -/

/-- R122: KLD completes whenever KEY_ADDR holds an address whose 16 bytes exist; RK[0..15] become the
key bytes, RK[16..175] stay, RCON is 1, RKV is 0, and nothing else but the position changes. -/
def Obligations.KldLoadsKey : Prop :=
  ∀ (s : State) (ka : Nat) (key : List Byte),
    s.rk.length = 176 → s.keyAddr = some ka → ka + 16 ≤ 2 ^ s.cfg.addrW →
    Memory.bytes s.mem ka 16 = key →
    ∃ rk', exec .kld s = .next { s with
        rkv := false, rk := rk', rcon := some 0x01#8, ph := 0x3#4, kpos := 16#8 } ∧
      rk'.length = 176 ∧ (∀ j < 16, rk'.getD j none = key[j]?) ∧
      (∀ j, 16 ≤ j → rk'.getD j none = s.rk.getD j none)

/-- R123: KXW completes at every position p in 16, 20, ..., 172 whose bytes (and RCON at a boundary,
NBLK at the last word) hold values. With a the previous 4 bytes and b the word 16 bytes earlier,
the new word is a xor b, or at p mod 16 = 0 the rotated, substituted a with the round constant in its
first byte, xor b; RCON advances at a boundary only; RKV is set by the last word only. -/
def Obligations.KxwDerivesWord : Prop :=
  ∀ (s : State) (p n : Nat) (r a0 a1 a2 a3 b0 b1 b2 b3 : Byte),
    s.rk.length = 176 → s.kpos.toNat = p → 16 ≤ p → p ≤ 172 → p % 4 = 0 →
    s.rk.getD (p - 4) none = some a0 → s.rk.getD (p - 3) none = some a1 →
    s.rk.getD (p - 2) none = some a2 → s.rk.getD (p - 1) none = some a3 →
    s.rk.getD (p - 16) none = some b0 → s.rk.getD (p - 15) none = some b1 →
    s.rk.getD (p - 14) none = some b2 → s.rk.getD (p - 13) none = some b3 →
    (p % 16 = 0 → s.rcon = some r) → (p = 172 → s.nblk = some n) →
    let new : List Byte :=
      if p % 16 = 0 then [sbox a1 ^^^ r ^^^ b0, sbox a2 ^^^ b1, sbox a3 ^^^ b2, sbox a0 ^^^ b3]
      else [a0 ^^^ b0, a1 ^^^ b1, a2 ^^^ b2, a3 ^^^ b3]
    ∃ rk', exec .kxw s = .next { s with
        regW := new.map some, rk := rk',
        rcon := if p % 16 = 0 then some (gfmul r 0x02#8) else s.rcon,
        rkv := if p = 172 then true else s.rkv,
        kpos := BitVec.ofNat 8 (p + 4),
        blk := if p = 172 then 0 else s.blk,
        ph := if p = 172 then (if 0 < n then 0x4#4 else 0xA#4) else s.ph } ∧
      rk'.length = 176 ∧ (∀ j < 4, rk'.getD (p + j) none = new[j]?) ∧
      (∀ j, j < p ∨ p + 4 ≤ j → rk'.getD j none = s.rk.getD j none)

/-- R121: KLD and the forty KXW that follow agree with keyexp, from every state whose next
micro-operation is KLD, whose key addresses exist and whose NBLK is latched (no host move due,
ENV_FAIL low): after 41 steps RK holds keyexp(key), W its last word, RCON 0x6C, RKV is 1. The
schedule has 176 bytes and begins with the key. -/
def Obligations.KeyScheduleRun : Prop :=
  ∀ (s : State) (ka n : Nat) (key : List Byte),
    s.rk.length = 176 → s.ph = Op.kld → s.inputs = [] → s.envFail = false →
    s.keyAddr = some ka → ka + 16 ≤ 2 ^ s.cfg.addrW → Memory.bytes s.mem ka 16 = key →
    s.nblk = some n →
    Host.Core.run Sys2Proof.core 41 s = .next { s with
      rk := (keyexp key).map some, regW := ((keyexp key).drop 172).map some,
      rcon := some 0x6C#8, rkv := true, kpos := 176#8, blk := 0,
      ph := if 0 < n then Op.cbx else Op.fin } ∧
    (keyexp key).length = 176 ∧ (keyexp key).take 16 = key

/-- The round constants in order of use, and the eleventh, never used (R128, marked there as
derived). -/
def Obligations.RoundConstantSequence : Prop :=
  (List.range 11).map (fun i => nextRcon^[i] 0x01#8) =
    [0x01#8, 0x02#8, 0x04#8, 0x08#8, 0x10#8, 0x20#8, 0x40#8, 0x80#8, 0x1B#8, 0x36#8, 0x6C#8]

/-- R130, R68: once RKV is 1 no micro-operation writes RK until RKV is cleared. -/
def Obligations.ScheduleReadOnlyOnceDerived : Prop :=
  ∀ s t : State, Inv s → step s = .next t → s.rkv = true → t.rkv = true → t.rk = s.rk

/-! The round transform (42_round_transform.md) and the block cipher (43_block_cipher.md). -/

/-- R141: SUB completes whenever all of S holds values; every byte goes through the S-box. -/
def Obligations.SubSubstitutesBytes : Prop :=
  ∀ (s : State) (b : List Byte), b.length = 16 → s.regS = b.map some →
    exec .sub s = .next { s with regS := (b.map sbox).map some, ph := 0x7#4 }

/-- R142: SHR completes whenever all of S holds values; row r, column c takes the old byte in row r,
column (c + r) mod 4; MIX is next when RND < 10, ARK otherwise. -/
def Obligations.ShrRotatesRows : Prop :=
  ∀ (s : State) (b : List Byte), b.length = 16 → s.regS = b.map some →
    ∃ b' : List Byte, exec .shr s = .next { s with
        regS := b'.map some, ph := if s.rnd.toNat < 10 then 0x8#4 else 0x5#4 } ∧
      b'.length = 16 ∧
      ∀ r < 4, ∀ c < 4, b'[r + 4 * c]? = b[r + 4 * ((c + r) % 4)]?

/-- R143: MIX completes whenever all of S holds values; output row r of a column is 2 times row r,
3 times row r+1, and rows r+2 and r+3, all in GF(2^8) and all indexes mod 4. -/
def Obligations.MixCombinesColumns : Prop :=
  ∀ (s : State) (b : List Byte), b.length = 16 → s.regS = b.map some →
    ∃ b' : List Byte, exec .mix s = .next { s with regS := b'.map some, ph := 0x5#4 } ∧
      b'.length = 16 ∧
      ∀ r < 4, ∀ c < 4, ∀ x0 x1 x2 x3 : Byte,
        b[4 * c + r]? = some x0 → b[4 * c + (r + 1) % 4]? = some x1 →
        b[4 * c + (r + 2) % 4]? = some x2 → b[4 * c + (r + 3) % 4]? = some x3 →
        b'[4 * c + r]? = some (gfmul 0x02#8 x0 ^^^ gfmul 0x03#8 x1 ^^^ x2 ^^^ x3)

/-- R144: ARK k completes for every k in 0..10 whenever RKV is 1 and S and RK{k} hold values: S[j]
is xored with RK[16*k + j]; RND advances while below 10; RK is not written. With RKV = 0 it is the
fault ScheduleNotValid. -/
def Obligations.ArkAddsRoundKey : Prop :=
  ∀ (s : State) (k : Nibble), k.toNat ≤ 10 →
    (∀ b key : List Byte, s.rkv = true → b.length = 16 → s.regS = b.map some → key.length = 16 →
      (∀ j < 16, s.rk.getD (16 * k.toNat + j) none = key[j]?) →
      exec (.ark k) s = .next { s with
        regS := (List.zipWith (· ^^^ ·) b key).map some,
        rnd := if s.rnd.toNat < 10 then s.rnd + 1#4 else s.rnd,
        ph := if s.rnd.toNat < 10 then 0x6#4 else 0x9#4 }) ∧
    (s.rkv = false → exec (.ark k) s = .fault .scheduleNotValid)

/-- The frame of SUB, SHR, MIX and ARK (from the state each of R141 to R144 lists as written): when
one answers, only S, PH and (ARK) RND may differ, every other register and field is as before, and
every byte of memory reads as before. -/
def Obligations.RoundTransformFrame : Prop :=
  ∀ s t : State,
    ((exec .sub s = .next t ∨ exec .shr s = .next t ∨ exec .mix s = .next t) →
      t = { s with regS := t.regS, ph := t.ph } ∧ UnchangedMemory s t) ∧
    (∀ k : Nibble, exec (.ark k) s = .next t →
      t = { s with regS := t.regS, ph := t.ph, rnd := t.rnd } ∧ UnchangedMemory s t)

/-- R160: ENCBLK, the 40 micro-operations from ARK 0 to ARK 10, is encblock of S under the schedule
in RK, from every state that stands at ARK 0 with S, RK and RKV complete (no host move due, ENV_FAIL
low); only S, RND and PH change, and the words issued are the rule's forty in order. -/
def Obligations.EncblkRun : Prop :=
  ∀ (s : State) (b rk : List Byte),
    s.ph = Op.ark → s.rnd = 0#4 → s.rkv = true → s.inputs = [] → s.envFail = false →
    b.length = 16 → s.regS = b.map some → rk.length = 176 → s.rk = rk.map some →
    Host.Core.run Sys2Proof.core 40 s =
      .next { s with regS := (encblock b rk).map some, rnd := 10#4, ph := Op.bst } ∧
    ∀ j < 40, ∃ u, Host.Core.run Sys2Proof.core j s = .next u ∧ encblkWords[j]? = some u.issued

/-- The block cipher is injective on 16-byte blocks for a fixed schedule (the bijection that R160 and
R141 to R144 note; the 16-byte blocks are finitely many, so injective is bijective). -/
def Obligations.BlockCipherInjective : Prop :=
  ∀ rk x y : List Byte, rk.length = 176 → x.length = 16 → y.length = 16 →
    encblock x rk = encblock y rk → x = y

/-! Model faults (10_state.md, 60_exceptions.md). -/

/-- R28: a read of a byte of S, RK, or of RCON or NBLK, that holds no value is the fault
UnwrittenRead, in every micro-operation that makes such a read (none reads W before writing it).
They hold no value after reset and after FIN. -/
def Obligations.UnwrittenReadStops : Prop :=
  ∀ s : State,
    (∀ j < 16, s.regS.getD j none = none →
      exec .sub s = .fault .unwrittenRead ∧ exec .shr s = .fault .unwrittenRead ∧
      exec .mix s = .fault .unwrittenRead ∧ exec .bst s = .fault .unwrittenRead ∧
      (s.rkv = true → ∀ k : Nibble, k.toNat ≤ 10 → exec (.ark k) s = .fault .unwrittenRead)) ∧
    (s.nblk = none → exec .bst s = .fault .unwrittenRead) ∧
    (∀ k : Nibble, k.toNat ≤ 10 → s.rkv = true → ∀ j < 16,
      s.rk.getD (16 * k.toNat + j) none = none → exec (.ark k) s = .fault .unwrittenRead) ∧
    (∀ p, s.kpos.toNat = p → 16 ≤ p → p ≤ 172 → p % 4 = 0 →
      ((∃ j < 4, s.rk.getD (p - 4 + j) none = none ∨ s.rk.getD (p - 16 + j) none = none) ∨
        (p % 16 = 0 ∧ s.rcon = none) ∨ (p = 172 ∧ s.nblk = none)) →
      exec .kxw s = .fault .unwrittenRead) ∧
    (∀ t : State, t = State.reset ∨ exec .fin s = .next t →
      t.regS = List.replicate 16 none ∧ t.regW = List.replicate 4 none ∧ t.rcon = none ∧
        t.rk = List.replicate 176 none ∧ t.nblk = none)

/-- In every state that meets the invariant, the engine's turn (no host move due, or a move that lets
it run) ends in no fault: none of R214 (UnwrittenRead, ScheduleNotValid, IllegalPhase) and none of the
model's own. It refuses only as LaunchPremise, at CHK. (R214 says the first of launches that meet the
premises; the invariant is the model's form of them. Whose turn it is: log 8.) -/
def Obligations.EngineFaultsUnreachable : Prop :=
  ∀ s : State, Inv s → EngineTurn s →
    (∀ f, step s ≠ .fault f) ∧
    (∀ r, step s = .refused r → r = .launchPremise ∧ s.ph = Op.chk)

/-! The CBC controller (44_cbc_controller.md). -/

/-- R171: ENCRYPT completes whenever BUSY is 0 and every descriptor register has been written:
STATUS is 0x01 and the sequencer at (CHK, 0, 0, 16), and nothing else changes. With BUSY = 1 it is
refused, and so it is with a descriptor register unwritten. -/
def Obligations.EncryptStartsCall : Prop :=
  ∀ s : State,
    (s.busy = false → (∀ d : Desc, (s.desc d).isSome = true) →
      exec .encrypt s = .next { s with
        err := 0#4, done := false, busy := true, ph := 0x1#4, blk := 0, rnd := 0#4, kpos := 16#8 }) ∧
    (s.busy = true → exec .encrypt s = .refused .busyViolation) ∧
    (s.busy = false → (∃ d : Desc, s.desc d = none) →
      exec .encrypt s = .refused .descriptorUnwritten)

/-- R176: CHK with every descriptor register written. A length that is no multiple of 16 raises
error 1 (whatever the other lengths); a key or IV length that is not 16 raises error 2; otherwise,
when the launch premises hold, NBLK is latched and KLD is next, and when they fail the launch is
refused. Nothing else changes. -/
def Obligations.ChkValidates : Prop :=
  ∀ (s : State) (pt n key kl iv il ct : Nat),
    s.ptAddr = some pt → s.ptLen = some n → s.keyAddr = some key → s.keyLen = some kl →
    s.ivAddr = some iv → s.ivLen = some il → s.ctAddr = some ct →
    (n % 16 ≠ 0 → exec .chk s = .next { s with err := 1#4, ph := 0xA#4 }) ∧
    (n % 16 = 0 → (kl ≠ 16 ∨ il ≠ 16) → exec .chk s = .next { s with err := 2#4, ph := 0xA#4 }) ∧
    (n % 16 = 0 → kl = 16 → il = 16 → LaunchPremises s.cfg pt n key iv ct →
      exec .chk s = .next { s with nblk := some (n / 16), ph := 0x2#4 }) ∧
    (n % 16 = 0 → kl = 16 → il = 16 → ¬ LaunchPremises s.cfg pt n key iv ct →
      exec .chk s = .refused .launchPremise)

/-- R172: CBX completes whenever RKV is 1 and the plaintext block and the chain input (the IV for
block 0, ciphertext block BLK-1 otherwise) lie at addresses that exist: S is their xor and RND is 0,
and nothing else but PH changes. With RKV = 0 it is the fault ScheduleNotValid. -/
def Obligations.CbxChainsBlock : Prop :=
  ∀ (s : State),
    (∀ (pt base : Nat) (p c : List Byte), s.rkv = true → s.ptAddr = some pt →
      pt + 16 * s.blk + 16 ≤ 2 ^ s.cfg.addrW →
      Memory.bytes s.mem (pt + 16 * s.blk) 16 = p →
      (if s.blk = 0 then s.ivAddr else s.ctAddr) = some base →
      (if s.blk = 0 then base else base + 16 * (s.blk - 1)) + 16 ≤ 2 ^ s.cfg.addrW →
      Memory.bytes s.mem (if s.blk = 0 then base else base + 16 * (s.blk - 1)) 16 = c →
      exec .cbx s = .next { s with
        regS := (List.zipWith (· ^^^ ·) p c).map some, ph := 0x5#4, rnd := 0#4 }) ∧
    (s.rkv = false → exec .cbx s = .fault .scheduleNotValid)

/-- R173: BST completes whenever S and NBLK hold values and the 16 addresses at CT_ADDR + 16*BLK
exist: they hold the bytes of S, every other address is as before, BLK advances, and CBX is next
while a block is left, FIN otherwise. S and everything else stays. -/
def Obligations.BstStoresBlock : Prop :=
  ∀ (s : State) (ct n : Nat) (b : List Byte),
    s.ctAddr = some ct → b.length = 16 → s.regS = b.map some → s.nblk = some n →
    ct + 16 * s.blk + 16 ≤ 2 ^ s.cfg.addrW →
    ∃ t, exec .bst s = .next t ∧
      t = { s with
        mem := t.mem, blk := s.blk + 1, ph := if s.blk + 1 < n then 0x4#4 else 0xA#4 } ∧
      (∀ j < 16, b[j]? = some (Memory.byte t.mem (ct + 16 * s.blk + j))) ∧
      UnchangedOutside s t (ct + 16 * s.blk) 16

/-- R177: FIN. When ERR is 0 or 3 it completes whenever CT_ADDR and PT_LEN hold values and the
scratch region exists: no address outside it changes (its bytes are any: ScratchBytesAreDraws). When ERR
is any other code it completes in every state and no byte of memory changes. In both cases S, W,
RCON, RK and NBLK hold no value after, RKV and BUSY are 0, DONE is 1, ERR is kept, the position is
(IDLE, 0, 0, 16), and nothing else of the engine changes. -/
def Obligations.FinEndsCall : Prop :=
  ∀ s : State,
    let ended (m : Memory) (d : Nat) : State := { s with
      rkv := false, regS := List.replicate 16 none, regW := List.replicate 4 none, rcon := none,
      rk := List.replicate 176 none, nblk := none, busy := false, done := true,
      ph := 0x0#4, blk := 0, rnd := 0#4, kpos := 16#8, mem := m, draws := d }
    (∀ ct n : Nat, s.err = 0#4 ∨ s.err = 3#4 → s.ctAddr = some ct → s.ptLen = some n →
      ct + n + 176 ≤ 2 ^ s.cfg.addrW →
      ∃ t, exec .fin s = .next t ∧ t = ended t.mem t.draws ∧
        UnchangedOutside s t (ct + n) 176) ∧
    (s.err ≠ 0#4 → s.err ≠ 3#4 → exec .fin s = .next (ended s.mem s.draws))

/-- The next-position function, row by row (R87, marked there as derived from R86): when a
micro-operation answers, the position is the table's, fields not mentioned keeping their value. For
ENCRYPT and FIN R87 writes PH only, and the whole position is R171's and R177's. The last row is the
ENV_FAIL event; that it is taken at the engine's first turn with the input high is log 20. -/
def Obligations.NextPositionTable : Prop :=
  ∀ s t : State,
    (exec .encrypt s = .next t →
      (t.ph, t.blk, t.rnd, t.kpos) = (0x1#4, 0, 0#4, 16#8)) ∧
    (exec .chk s = .next t → s.err = 0#4 →
      (t.ph, t.blk, t.rnd, t.kpos) =
        (if t.err ≠ 0#4 then 0xA#4 else 0x2#4, s.blk, s.rnd, s.kpos)) ∧
    (exec .kld s = .next t → (t.ph, t.blk, t.rnd, t.kpos) = (0x3#4, s.blk, s.rnd, 16#8)) ∧
    (exec .kxw s = .next t → s.kpos.toNat + 4 < 176 →
      (t.ph, t.blk, t.rnd, t.kpos) = (s.ph, s.blk, s.rnd, s.kpos + 4#8)) ∧
    (exec .kxw s = .next t → s.kpos.toNat + 4 = 176 → ∀ n ∈ s.nblk,
      (t.ph, t.blk, t.rnd, t.kpos) = (if 0 < n then 0x4#4 else 0xA#4, 0, s.rnd, 176#8)) ∧
    (exec .cbx s = .next t → (t.ph, t.blk, t.rnd, t.kpos) = (0x5#4, s.blk, 0#4, s.kpos)) ∧
    (∀ k, exec (.ark k) s = .next t → s.rnd.toNat < 10 →
      (t.ph, t.blk, t.rnd, t.kpos) = (0x6#4, s.blk, s.rnd + 1#4, s.kpos)) ∧
    (∀ k, exec (.ark k) s = .next t → s.rnd = 10#4 →
      (t.ph, t.blk, t.rnd, t.kpos) = (0x9#4, s.blk, s.rnd, s.kpos)) ∧
    (exec .sub s = .next t → (t.ph, t.blk, t.rnd, t.kpos) = (0x7#4, s.blk, s.rnd, s.kpos)) ∧
    (exec .shr s = .next t →
      (t.ph, t.blk, t.rnd, t.kpos) =
        (if s.rnd.toNat < 10 then 0x8#4 else 0x5#4, s.blk, s.rnd, s.kpos)) ∧
    (exec .mix s = .next t → (t.ph, t.blk, t.rnd, t.kpos) = (0x5#4, s.blk, s.rnd, s.kpos)) ∧
    (exec .bst s = .next t → ∀ n ∈ s.nblk,
      (t.ph, t.blk, t.rnd, t.kpos) =
        (if s.blk + 1 < n then 0x4#4 else 0xA#4, s.blk + 1, s.rnd, s.kpos)) ∧
    (exec .fin s = .next t → (t.ph, t.blk, t.rnd, t.kpos) = (0x0#4, 0, 0#4, 16#8)) ∧
    (step s = .next t → EngineTurn s → s.envFail = true → 0x2 ≤ s.ph.toNat → s.ph.toNat ≤ 0x9 →
      (t.err, t.ph, t.blk, t.rnd, t.kpos) = (3#4, 0xA#4, s.blk, s.rnd, s.kpos))

/-- The frame of KLD and KXW (from the state R122 and R123 list as written): when one answers, only
what the rule names may differ, RK outside the bytes written is as before, and every byte of memory
reads as before. -/
def Obligations.KeySchedulerFrame : Prop :=
  ∀ s t : State,
    (exec .kld s = .next t →
      t = { s with rkv := t.rkv, rk := t.rk, rcon := t.rcon, ph := t.ph, kpos := t.kpos } ∧
      (∀ j, 16 ≤ j → t.rk.getD j none = s.rk.getD j none) ∧ UnchangedMemory s t) ∧
    (exec .kxw s = .next t →
      t = { s with
        regW := t.regW, rk := t.rk, rcon := t.rcon, rkv := t.rkv, ph := t.ph, blk := t.blk,
        kpos := t.kpos } ∧
      (∀ j, j < s.kpos.toNat ∨ s.kpos.toNat + 4 ≤ j → t.rk.getD j none = s.rk.getD j none) ∧
      UnchangedMemory s t)

/-- The frame of ENCRYPT, CHK, CBX, BST and FIN (from the state R171, R176, R172, R173 and R177 list
as written): when one answers, only what the rule names may differ; ENCRYPT, CHK and CBX leave every
byte of memory, BST every byte but the 16 of ciphertext block BLK, FIN every byte but the 176 of
the scratch region, and all of memory when ERR is neither 0 nor 3. -/
def Obligations.CbcControllerFrame : Prop :=
  ∀ s t : State,
    (exec .encrypt s = .next t →
      t = { s with
        err := t.err, done := t.done, busy := t.busy, ph := t.ph, blk := t.blk, rnd := t.rnd,
        kpos := t.kpos } ∧ UnchangedMemory s t) ∧
    (exec .chk s = .next t →
      t = { s with err := t.err, nblk := t.nblk, ph := t.ph } ∧ UnchangedMemory s t) ∧
    (exec .cbx s = .next t →
      t = { s with regS := t.regS, ph := t.ph, rnd := t.rnd } ∧ UnchangedMemory s t) ∧
    (exec .bst s = .next t →
      t = { s with mem := t.mem, ph := t.ph, blk := t.blk } ∧
      UnchangedOutside s t (blockAddr (s.readDesc .ctAddr) s.blk) 16) ∧
    (exec .fin s = .next t →
      t = { s with
        regS := t.regS, regW := t.regW, rcon := t.rcon, rk := t.rk, nblk := t.nblk, rkv := t.rkv,
        busy := t.busy, done := t.done, ph := t.ph, blk := t.blk, rnd := t.rnd, kpos := t.kpos,
        mem := t.mem, draws := t.draws } ∧
      UnchangedOutside s t (s.readDesc .ctAddr + s.readDesc .ptLen) 176 ∧
      (s.errPastChk = false → UnchangedMemory s t))

/-- R64: the 16 bytes the CBX after a BST reads as its chain input are exactly the bytes that BST
wrote, in every state: S after the CBX is the next plaintext block xor S at the BST. -/
def Obligations.ChainReadsStoredBlock : Prop :=
  ∀ (s t u : State) (pt ct : Nat) (b p : List Byte),
    exec .bst s = .next t → exec .cbx t = .next u →
    s.regS = b.map some → b.length = 16 → s.ctAddr = some ct → s.ptAddr = some pt →
    Memory.bytes t.mem (pt + 16 * t.blk) 16 = p →
    Memory.bytes t.mem (ct + 16 * (t.blk - 1)) 16 = b ∧
      u.regS = (List.zipWith (· ^^^ ·) p b).map some

/-- The end state of a call as a function (R178, marked there as derived): from every state that
meets the invariant, stands at CHK with a valid descriptor and the launch premises, with no host move
due and ENV_FAIL low, whatever bytes the plaintext, key and IV regions hold, the call ends after
43 + 42*NBLK steps with STATUS = 0x02, the ciphertext blocks of CBC under keyexp(key) in the data part, every address outside the ciphertext region as before, the key material discarded and the
descriptor unchanged. Nothing is said of the scratch bytes. -/
def Obligations.CallEndState : Prop :=
  ∀ (s : State) (pt n key iv ct : Nat) (kb ivb : List Byte) (ps : List (List Byte)),
    Inv s → CallReady s pt n key iv ct kb ivb ps →
    ∃ t, Host.Core.run Sys2Proof.core (43 + 42 * (n / 16)) s = .next t ∧
      t.statusWord = 0x02#8 ∧
      t = { s with
        regS := List.replicate 16 none, regW := List.replicate 4 none, rcon := none,
        rk := List.replicate 176 none, nblk := none, rkv := false, busy := false, done := true,
        ph := 0x0#4, blk := 0, rnd := 0#4, kpos := 16#8, mem := t.mem, draws := t.draws } ∧
      (∀ i < n / 16,
        (cbcBlocks (keyexp kb) ivb ps)[i]? = some (Memory.bytes t.mem (ct + 16 * i) 16)) ∧
      UnchangedOutside s t ct (n + 176)

/-- R207: a call with an invalid descriptor ends in two steps with code 1 or 2, whatever ENV_FAIL
does (R205), and no byte of memory has been written, nor read: with any other memory m in its place
the two steps answer the same state but for m. -/
def Obligations.RejectedCallEnds : Prop :=
  ∀ (s : State) (n kl il : Nat),
    Inv s → s.ph = Op.chk → s.inputs = [] →
    s.ptLen = some n → s.keyLen = some kl → s.ivLen = some il →
    n % 16 ≠ 0 ∨ kl ≠ 16 ∨ il ≠ 16 →
    ∃ t, Host.Core.run Sys2Proof.core 2 s = .next t ∧
      t.statusWord = (if n % 16 ≠ 0 then 0x12#8 else 0x22#8) ∧
      t.mem = s.mem ∧ t.ph = Op.idle ∧ t.draws = s.draws ∧
      ∀ m : Memory,
        Host.Core.run Sys2Proof.core 2 { s with mem := m } = .next { t with mem := m }

/-- R179: a zero-length call ends after 43 steps with STATUS = 0x02. No address outside the scratch
region CT_ADDR .. CT_ADDR + 175 changes (its bytes are any: ScratchBytesAreDraws), and the words
issued are CHK, KLD, KXW x 40 and FIN: no CBX, which alone reads plaintext and IV, and no BST. -/
def Obligations.ZeroLengthCallEnds : Prop :=
  ∀ (s : State) (pt key iv ct : Nat),
    Inv s → s.ph = Op.chk → s.inputs = [] → s.envFail = false →
    s.ptAddr = some pt → s.ptLen = some 0 → s.keyAddr = some key → s.keyLen = some 16 →
    s.ivAddr = some iv → s.ivLen = some 16 → s.ctAddr = some ct →
    LaunchPremises s.cfg pt 0 key iv ct →
    ∃ t, Host.Core.run Sys2Proof.core 43 s = .next t ∧ t.statusWord = 0x02#8 ∧
      t.ph = Op.idle ∧ UnchangedOutside s t ct 176 ∧
      ∀ j < 43, ∃ u, Host.Core.run Sys2Proof.core j s = .next u ∧
        ([0x10#8, 0x20#8] ++ List.replicate 40 0x30#8 ++ [0xA0#8])[j]? = some u.issued

/-- Determinism of a call (R182 (a), marked there as derived): two calls with the same plaintext, key
and IV bytes both end, and leave the same ciphertext bytes, whatever the addresses, the earlier
state, the widths and the scratch draws. -/
def Obligations.CallDeterminism : Prop :=
  ∀ (s s' : State) (pt pt' n key key' iv iv' ct ct' : Nat) (kb ivb : List Byte)
    (ps : List (List Byte)),
    Inv s → Inv s' → CallReady s pt n key iv ct kb ivb ps →
    CallReady s' pt' n key' iv' ct' kb ivb ps →
    ∃ t t', Host.Core.run Sys2Proof.core (43 + 42 * (n / 16)) s = .next t ∧
      Host.Core.run Sys2Proof.core (43 + 42 * (n / 16)) s' = .next t' ∧
      Memory.bytes t.mem ct n = Memory.bytes t'.mem ct' n

/-- Chaining propagation (R182 (b), marked there as derived): if two plaintexts differ in block i
only, the ciphertexts agree in every block before i and differ in block i and every later block. -/
def Obligations.ChainingPropagation : Prop :=
  ∀ (rk iv : List Byte) (ps qs : List (List Byte)) (i : Nat),
    rk.length = 176 → iv.length = 16 → (∀ p ∈ ps, p.length = 16) → (∀ q ∈ qs, q.length = 16) →
    ps.length = qs.length → i < ps.length → ps[i]? ≠ qs[i]? →
    (∀ j, j ≠ i → ps[j]? = qs[j]?) →
    (∀ j < i, (cbcBlocks rk iv ps)[j]? = (cbcBlocks rk iv qs)[j]?) ∧
    (∀ j, i ≤ j → j < ps.length → (cbcBlocks rk iv ps)[j]? ≠ (cbcBlocks rk iv qs)[j]?)

/-- IV sensitivity (R182 (c), marked there as derived): with plaintext and key fixed, another IV
changes ciphertext block 0 and every later block. -/
def Obligations.IvSensitivity : Prop :=
  ∀ (rk iv iv' : List Byte) (ps : List (List Byte)),
    rk.length = 176 → iv.length = 16 → iv'.length = 16 → (∀ p ∈ ps, p.length = 16) → iv ≠ iv' →
    ∀ j < ps.length, (cbcBlocks rk iv ps)[j]? ≠ (cbcBlocks rk iv' ps)[j]?

/-- R86: the sequencer's program. In a valid call of NBLK blocks (as in CallEndState) the words
issued are CHK, KLD, KXW x 40, then CBX, the forty of ENCBLK and BST for each block, then FIN, and
then the engine is idle; a CHK that raises an error is followed by FIN, and so is an ENV_FAIL event.
That the event is taken at the engine's first turn with the input high in KLD .. BST is log 20. -/
def Obligations.CallIssuesFixedOrder : Prop :=
  (∀ (s : State) (pt n key iv ct : Nat) (kb ivb : List Byte) (ps : List (List Byte)),
    Inv s → CallReady s pt n key iv ct kb ivb ps →
    (callWords (n / 16)).length = 43 + 42 * (n / 16) ∧
    (∀ j < 43 + 42 * (n / 16), ∃ u, Host.Core.run Sys2Proof.core j s = .next u ∧
      (callWords (n / 16))[j]? = some u.issued) ∧
    ∃ t, Host.Core.run Sys2Proof.core (43 + 42 * (n / 16)) s = .next t ∧ t.ph = Op.idle) ∧
  (∀ s t : State, s.err = 0#4 → exec .chk s = .next t → t.err ≠ 0#4 → t.issued = 0xA0#8) ∧
  (∀ s t : State, EngineTurn s → s.envFail = true → 0x2 ≤ s.ph.toNat → s.ph.toNat ≤ 0x9 →
    step s = .next t → t.issued = 0xA0#8)

/-- R181: the end of a run. Only the step that performs FIN brings the machine to DONE = 1 and
BUSY = 0; only an ENCRYPT command or a reset takes it from there; and there, in a state that meets
the invariant, the sequencer is idle and the engine's own step changes nothing (the model's choice
for R181's no enabled step, log 14). -/
def Obligations.EndOfRun : Prop :=
  ∀ s t : State,
    (step s = .next t → ¬ (s.done = true ∧ s.busy = false) → t.done = true ∧ t.busy = false →
      EngineTurn s ∧ s.ph = Op.fin) ∧
    (step s = .next t → s.done = true ∧ s.busy = false → ¬ (t.done = true ∧ t.busy = false) →
      s.inputs.head? = some (.writeReg 0 1) ∨ s.inputs.head? = some .reset) ∧
    (Inv s → s.done = true → s.busy = false → s.ph = Op.idle ∧ engineMove s = .next s)

/-- R32: who sets and clears each flag. RKV is set by the KXW at 172 and cleared by KLD, FIN and
reset; BUSY is set by ENCRYPT and cleared by FIN and reset; DONE is set by FIN and cleared by ENCRYPT
and reset; ERR is changed by CHK, the ENV_FAIL event, ENCRYPT and reset. No other step changes one.
CBX and ARK require RKV. At reset all four are 0. -/
def Obligations.FlagWriters : Prop :=
  (State.reset.rkv = false ∧ State.reset.busy = false ∧ State.reset.done = false ∧
    State.reset.err = 0#4) ∧
  (∀ s : State, s.rkv = false → exec .cbx s = .fault .scheduleNotValid ∧
    ∀ k : Nibble, k.toNat ≤ 10 → exec (.ark k) s = .fault .scheduleNotValid) ∧
  ∀ s t : State, step s = .next t →
    let command := s.inputs.head? = some (.writeReg 0 1)
    let reset := s.inputs.head? = some .reset
    (s.rkv = false → t.rkv = true → EngineTurn s ∧ s.ph = Op.kxw ∧ s.kpos = 172#8) ∧
    (s.rkv = true → t.rkv = false → (EngineTurn s ∧ (s.ph = Op.kld ∨ s.ph = Op.fin)) ∨ reset) ∧
    (s.busy = false → t.busy = true → command) ∧
    (s.busy = true → t.busy = false → (EngineTurn s ∧ s.ph = Op.fin) ∨ reset) ∧
    (s.done = false → t.done = true → EngineTurn s ∧ s.ph = Op.fin) ∧
    (s.done = true → t.done = false → command ∨ reset) ∧
    (t.err ≠ s.err → command ∨ reset ∨
      (EngineTurn s ∧ (s.ph = Op.chk ∨ (s.envFail = true ∧ s.envFailWindow = true))))

/-! Errors (60_exceptions.md). -/

/-- R206: raising error e is STATUS.ERR <- e and CTL.PH <- FIN, and nothing else; a CHK that ends
with an error has raised it and done nothing else; and the FIN that follows a raise leaves the key
material discarded, BUSY 0, DONE 1, ERR e and the engine idle. -/
def Obligations.RaiseSetsErrorAndFin : Prop :=
  ∀ (s : State) (e : Nibble),
    s.raise e = { s with err := e, ph := 0xA#4 } ∧
    (∀ t, s.err = 0#4 → exec .chk s = .next t → t.err ≠ 0#4 → t = s.raise t.err) ∧
    (∀ t, exec .fin (s.raise e) = .next t →
      t.err = e ∧ t.busy = false ∧ t.done = true ∧ t.ph = Op.idle ∧ t.rkv = false ∧
        t.regS = List.replicate 16 none ∧ t.regW = List.replicate 4 none ∧ t.rcon = none ∧
        t.rk = List.replicate 176 none ∧ t.nblk = none)

/-- The ENV_FAIL event (R203). With ENV_FAIL raised and the next phase in KLD .. BST, the engine's next
step takes the event: ERR is 3, FIN is next, no address outside the ciphertext region, data part and
scratch, and nothing else changes (the region's bytes are any: ScratchBytesAreDraws), and the step
after it, FIN, ends the call with STATUS = 0x32. And only so does ERR become 3. R203 lets the event be
taken at a point the host chooses; that the engine takes it at its first turn with the input high is
the model's (log 20). -/
def Obligations.EnvFailEventTaken : Prop :=
  (∀ (s : State) (ct n : Nat), s.inputs = [] → s.envFail = true →
    0x2 ≤ s.ph.toNat → s.ph.toNat ≤ 0x9 → s.ctAddr = some ct → s.ptLen = some n →
    ct + n + 176 ≤ 2 ^ s.cfg.addrW →
    ∃ t, step s = .next t ∧
      t = { s with err := 3#4, ph := 0xA#4, mem := t.mem, draws := t.draws } ∧
      UnchangedOutside s t ct (n + 176) ∧
      ∃ u, step t = .next u ∧ u.statusWord = 0x32#8 ∧ u.ph = Op.idle) ∧
  (∀ s t : State, step s = .next t → s.err ≠ 3#4 → t.err = 3#4 →
    EngineTurn s ∧ s.envFail = true ∧ 0x2 ≤ s.ph.toNat ∧ s.ph.toNat ≤ 0x9)

/-- Outside KLD .. BST the level of ENV_FAIL has no effect (R210, marked there as derived; R38):
idle, at CHK and at FIN the engine's step is the same as with ENV_FAIL low. That an idle engine's step
answers the same state is the model's choice for R181's no enabled step (log 14). -/
def Obligations.EnvFailIgnoredOutsideWindow : Prop :=
  ∀ s : State, s.inputs = [] → (s.ph = Op.idle ∨ s.ph = Op.chk ∨ s.ph = Op.fin) →
    step s = (if s.ph = Op.idle then .next s
      else if s.ph = Op.chk then exec .chk s else exec .fin s)

/-! The host interface (10_state.md section 5, 44_cbc_controller.md). -/

/-- CTRL (R34). Writing 0 does nothing, at any time; writing 1 issues ENCRYPT; a word with any of bits
7:1 set is refused as ReservedCommand; a read returns 0x00 and changes nothing else. While BUSY = 1
R214 lists BusyViolation for a write to CTRL: that 0x00 is accepted then and that a reserved word is
ReservedCommand is the model's choice (log 18). -/
def Obligations.CtrlPort : Prop :=
  ∀ s : State,
    hostWriteReg 0 0x00 s = .next s ∧ hostWriteReg 0 0x01 s = exec .encrypt s ∧
    (∀ v, 2 ≤ v → v < 256 → hostWriteReg 0 v s = .refused .reservedCommand) ∧
    hostReadReg 0 s = .next { s with rdata := some 0x00 }

/-- R36: the descriptor registers. While BUSY is 0 every value below 2^width can be written, is what
a read then returns, and changes no other register; no instruction of the engine writes one, and
every step but a host register write and a reset keeps them, also across calls. -/
def Obligations.DescriptorRegisters : Prop :=
  (∀ (s : State) (r v : Nat) (d : Desc), Desc.ofNumber r = some d → s.busy = false →
    v < 2 ^ d.width s.cfg →
    ∃ t, hostWriteReg r v s = .next t ∧ t.desc d = some v ∧
      (∀ e, e ≠ d → t.desc e = s.desc e) ∧
      t = { s with
        ptAddr := t.ptAddr, ptLen := t.ptLen, keyAddr := t.keyAddr, keyLen := t.keyLen,
        ivAddr := t.ivAddr, ivLen := t.ivLen, ctAddr := t.ctAddr } ∧
      hostReadReg r t = .next { t with rdata := some v }) ∧
  (∀ (i : Instr) (s t : State), exec i s = .next t → ∀ d : Desc, t.desc d = s.desc d) ∧
  (∀ s t : State, step s = .next t → (∀ r v, s.inputs.head? ≠ some (.writeReg r v)) →
    s.inputs.head? ≠ some .reset → ∀ d : Desc, t.desc d = s.desc d)

/-- R33, R244: the nine registers by number. The descriptor registers are numbers 2 to 8, of ADDR_W or
LEN_W bits, read-write while BUSY = 0; CTRL reads 0x00; STATUS reads as its word and a write to it is
ignored; a write to registers 2 to 8 while BUSY = 1 is refused; an access to number 9 or above, which
does not exist, is refused. -/
def Obligations.RegistersByNumber : Prop :=
  ∀ (s : State) (r v : Nat),
    (Desc.all.map fun d => (Desc.ofNumber d.number, d.number, d.width s.cfg)) =
      [(some .ptAddr, 2, s.cfg.addrW), (some .ptLen, 3, s.cfg.lenW), (some .keyAddr, 4, s.cfg.addrW),
        (some .keyLen, 5, s.cfg.lenW), (some .ivAddr, 6, s.cfg.addrW), (some .ivLen, 7, s.cfg.lenW),
        (some .ctAddr, 8, s.cfg.addrW)] ∧
    (∀ d, Desc.ofNumber r = some d → s.busy = false → v < 2 ^ d.width s.cfg →
      ∃ t, hostWriteReg r v s = .next t ∧ hostReadReg r t = .next { t with rdata := some v }) ∧
    hostReadReg 0 s = .next { s with rdata := some 0x00 } ∧
    hostReadReg 1 s = .next { s with rdata := some s.statusWord.toNat } ∧
    hostWriteReg 1 v s = .next s ∧
    (2 ≤ r → r ≤ 8 → s.busy = true → hostWriteReg r v s = .refused .busyViolation) ∧
    (9 ≤ r → hostWriteReg r v s = .refused .noSuchRegister ∧
      hostReadReg r s = .refused .noSuchRegister)

/-- The fields of STATUS and, under the invariant, its legal values (R35): BUSY bit 0, DONE bit 1,
bits 3:2 zero, ERR bits 7:4; the host's read returns it; BUSY and DONE are never both 1. -/
def Obligations.StatusRegister : Prop :=
  ∀ s : State,
    (s.statusWord.getLsbD 0 = s.busy ∧ s.statusWord.getLsbD 1 = s.done ∧
      s.statusWord.extractLsb' 2 2 = 0#2 ∧ s.statusWord.extractLsb' 4 4 = s.err ∧
      hostReadReg 1 s = .next { s with rdata := some s.statusWord.toNat }) ∧
    (Inv s → s.statusWord ∈ legalStatus)

/-- Key-derived state is never readable by the host (R39, R220): whatever S, W, RCON, RK, RKV, NBLK
and the position hold, a host read of any register or of memory returns the same. -/
def Obligations.KeyMaterialHidden : Prop :=
  ∀ (s t : State) (rS rW rk : ByteFile) (rc : Option Byte) (nb : Option Nat) (v : Bool)
    (p r : Nibble) (b : Nat) (k : Byte) (reg a : Nat),
    t = { s with
      regS := rS, regW := rW, rk := rk, rcon := rc, nblk := nb, rkv := v, ph := p, rnd := r,
      blk := b, kpos := k } →
    (∀ s', hostReadReg reg s = .next s' →
      ∃ t', hostReadReg reg t = .next t' ∧ t'.rdata = s'.rdata) ∧
    (∀ s', hostReadMem a s = .next s' →
      ∃ t', hostReadMem a t = .next t' ∧ t'.rdata = s'.rdata)

/-- Device memory and the host (R67, R242, R180). While BUSY is 0 the host can place bytes at addresses
that exist and read back the byte an address holds, whatever the registers hold. While BUSY is 1 a
write that touches the ciphertext region with its scratch part, the plaintext, the key or the IV
region, and a read in the ciphertext region, are refused; a write and a read clear of them go through.
That the model refuses them is its form of R67's and R242's no such move (log 12). -/
def Obligations.HostKeepsOffBuffers : Prop :=
  ∀ (s : State) (a : Nat) (bs : List Byte),
    (s.busy = false → a + bs.length ≤ 2 ^ s.cfg.addrW →
      hostWriteMem a bs s = .next { s with mem := Memory.writeSeq s.mem a bs }) ∧
    (s.busy = false → a < 2 ^ s.cfg.addrW →
      hostReadMem a s = .next { s with rdata := some (Memory.byte s.mem a).toNat }) ∧
    ∀ pt n key iv ct : Nat, s.busy = true → s.ptAddr = some pt → s.ptLen = some n →
      s.keyAddr = some key → s.ivAddr = some iv → s.ctAddr = some ct →
      (∀ j < bs.length,
        (ct ≤ a + j ∧ a + j < ct + n + 176) ∨ (pt ≤ a + j ∧ a + j < pt + n) ∨
          (key ≤ a + j ∧ a + j < key + 16) ∨ (iv ≤ a + j ∧ a + j < iv + 16) →
        hostWriteMem a bs s = .refused .bufferViolation) ∧
      (ct ≤ a → a < ct + n + 176 → hostReadMem a s = .refused .bufferViolation) ∧
      (Separate a bs.length ct (n + 176) → Separate a bs.length pt n →
        Separate a bs.length key 16 → Separate a bs.length iv 16 →
        a + bs.length ≤ 2 ^ s.cfg.addrW →
        hostWriteMem a bs s = .next { s with mem := Memory.writeSeq s.mem a bs }) ∧
      (a < ct ∨ ct + n + 176 ≤ a → a < 2 ^ s.cfg.addrW →
        hostReadMem a s = .next { s with rdata := some (Memory.byte s.mem a).toNat })

/-! Reset (10_state.md section 7, 70_reset_and_hazards.md). -/

/-- R42: the reset values the spec gives. (The parameters, the empty memory, and the model's own
fields are choices of logs 2, 3, 5 and 8, and are not stated here.) -/
def Obligations.ResetValues : Prop :=
  let s := State.reset
  s.ph = 0x0#4 ∧ s.blk = 0 ∧ s.rnd = 0#4 ∧ s.kpos = 16#8 ∧ s.nblk = none ∧ s.rkv = false ∧
  s.statusWord = 0x00#8 ∧ (∀ d : Desc, s.desc d = none) ∧
  s.regS = List.replicate 16 none ∧ s.regW = List.replicate 4 none ∧ s.rcon = none ∧
  s.rk = List.replicate 176 none ∧ s.envFail = false ∧
  hostReadReg 0 s = .next { s with rdata := some 0x00 } ∧ engineMove s = .next s ∧
  exec .encrypt s = .refused .descriptorUnwritten ∧
  (∀ r d, Desc.ofNumber r = some d → ∃ t v, hostReadReg r s = .next t ∧
    t = { s with rdata := some v, draws := t.draws } ∧ v < 2 ^ d.width s.cfg)

/-- Reset (R230): when the host asserts reset, in every state, every piece of engine state takes its value of
R42; when no call past CHK is running, device memory is not changed. That the level of the ENV_FAIL
input stays as the host drives it is the model's (log 13). -/
def Obligations.ResetFromAnyState : Prop :=
  ∀ (s : State) (rest : List HostMove), s.inputs = .reset :: rest →
    ∃ t, step s = .next t ∧
      t = { State.reset with
        cfg := s.cfg, envFail := s.envFail, mem := t.mem, draws := t.draws, rdata := s.rdata,
        inputs := rest } ∧
      (s.busy = false ∨ s.ph = Op.idle ∨ s.ph = Op.chk ∨
        (s.ph = Op.fin ∧ s.err ≠ 0#4 ∧ s.err ≠ 3#4) → t.mem = s.mem)

/-- R231: reset in a call that had passed CHK. STATUS is 0x00 (not DONE), the key material is
discarded, and no address outside the call's ciphertext region changes (its bytes are any:
ScratchBytesAreDraws). -/
def Obligations.ResetDuringCall : Prop :=
  ∀ (s : State) (rest : List HostMove) (ct n : Nat),
    Inv s → s.inputs = .reset :: rest →
    (0x2 ≤ s.ph.toNat ∧ s.ph.toNat ≤ 0x9) ∨ (s.ph = Op.fin ∧ (s.err = 0#4 ∨ s.err = 3#4)) →
    s.ctAddr = some ct → s.ptLen = some n →
    ∃ t, step s = .next t ∧ t.statusWord = 0x00#8 ∧
      t.regS = List.replicate 16 none ∧ t.regW = List.replicate 4 none ∧ t.rcon = none ∧
      t.rk = List.replicate 176 none ∧ t.nblk = none ∧ t.rkv = false ∧
      UnchangedOutside s t ct (n + 176)

/-! Invariants. -/

/-- Every step keeps memory's canonical form, from every state that has it. -/
def Obligations.MemoryCanonicalKept : Prop :=
  ∀ s t : State, Memory.wf s.mem → step s = .next t → Memory.wf t.mem

/-- Every step keeps the state's shape: the sizes of the register groups, the legal parameters,
memory canonical and inside the address space, the descriptor registers inside their widths. -/
def Obligations.ShapeKept : Prop :=
  ∀ s t : State, Shape s → step s = .next t → Shape t

/-- Every step, of the engine or of the host, keeps the invariant, from every state that meets it. -/
def Obligations.InvariantKept : Prop :=
  ∀ s t : State, Inv s → step s = .next t → Inv t

/-- The invariant holds at reset. -/
def Obligations.ResetMeetsInvariant : Prop := Inv State.reset

/-- The engine's turn (log 8) changes no byte of memory outside the ciphertext region of the descriptor,
data part and scratch (R61 and R178, marked there as derived; R51). -/
def Obligations.EngineWritesOnlyCiphertext : Prop :=
  ∀ (s t : State) (x : Nat), Inv s → EngineTurn s → step s = .next t →
    (∀ ct n, s.ctAddr = some ct → s.ptLen = some n → x < ct ∨ ct + n + 176 ≤ x) →
    Memory.read t.mem x = Memory.read s.mem x

/-! Free values. -/

/-- The bytes that the spec leaves any are draws of the free value, one each, in the order of the
addresses: at FIN of a call past CHK the scratch region (R55, R177), at the ENV_FAIL event and at a
reset in a call past CHK (KLD .. BST next, or FIN next with ERR 0 or 3) the whole ciphertext region
(R203, R231). That the draws are numbered by a counter is the model's form of a fresh draw (log 5),
that the engine takes the event at its first turn with the input high is log 20, and when a call is
past CHK is log 23. -/
def Obligations.ScratchBytesAreDraws : Prop :=
  ∀ (s t : State) (ct n : Nat), s.ctAddr = some ct → s.ptLen = some n →
    (exec .fin s = .next t → s.err = 0#4 ∨ s.err = 3#4 →
      t.draws = s.draws + 176 ∧
      ∀ j < 176, Memory.byte t.mem (ct + n + j) = Config.freeByte (s.draws + j)) ∧
    (step s = .next t → EngineTurn s → s.envFail = true → 0x2 ≤ s.ph.toNat → s.ph.toNat ≤ 0x9 →
      t.draws = s.draws + (n + 176) ∧
      ∀ j < n + 176, Memory.byte t.mem (ct + j) = Config.freeByte (s.draws + j)) ∧
    (Inv s → step s = .next t → s.inputs.head? = some .reset →
      (0x2 ≤ s.ph.toNat ∧ s.ph.toNat ≤ 0x9) ∨ (s.ph = Op.fin ∧ (s.err = 0#4 ∨ s.err = 3#4)) →
      t.draws = s.draws + (n + 176) ∧
      ∀ j < n + 176, Memory.byte t.mem (ct + j) = Config.freeByte (s.draws + j))
end

