-- ==== Sys2Proof/Laws/Files.lean ====
section
/-! SUPPORT. The laws of the byte files: what a read gives, what a write changes, and the register
groups that hold values throughout or nowhere. -/

namespace Sys2Proof.Machine

@[simp] theorem holding_length (bs : List Byte) : (holding bs).length = bs.length := by
  simp [holding]

@[simp] theorem discarded_length (n : Nat) : (discarded n).length = n := by simp [discarded]

theorem holding_getD {bs : List Byte} {j : Nat} (h : j < bs.length) :
    (holding bs).getD j none = some bs[j] := by
  simp [holding, List.getD, List.getElem?_eq_getElem h]

/-- What a read of a register group gives, byte by byte (R14, R28). -/
theorem readFile_eq_ok {f : ByteFile} {i n : Nat} {bs : List Byte} :
    readFile f i n = .ok bs ↔
      bs.length = n ∧ ∀ j (h : j < bs.length), f.getD (i + j) none = some bs[j] := by
  induction n generalizing i bs with
  | zero =>
    simp only [readFile, Except.ok.injEq]
    constructor
    · rintro rfl; exact ⟨rfl, by simp⟩
    · rintro ⟨h, -⟩; exact (List.length_eq_zero_iff.1 h).symm
  | succ n ih =>
    simp only [readFile]
    constructor
    · intro h
      split at h
      · simp at h
      · rename_i b hb
        split at h
        · rename_i bs' hbs
          cases h
          obtain ⟨hl, hr⟩ := ih.1 hbs
          refine ⟨by simp [hl], fun j hj => ?_⟩
          cases j with
          | zero => simpa using hb
          | succ j =>
            have := hr j (by simpa using hj)
            simpa [Nat.add_assoc, Nat.add_comm 1 j] using this
        · simp at h
    · rintro ⟨hl, hr⟩
      cases bs with
      | nil => simp at hl
      | cons b bs =>
        have h0 : f.getD i none = some b := hr 0 (by simp)
        have h1 : readFile f (i + 1) n = .ok bs := by
          refine ih.2 ⟨by simpa using hl, fun j hj => ?_⟩
          have := hr (j + 1) (by simpa using hj)
          simpa [Nat.add_assoc, Nat.add_comm 1 j] using this
        simp only [h0, h1]

theorem readFile_length {f : ByteFile} {i n : Nat} {bs : List Byte}
    (h : readFile f i n = .ok bs) : bs.length = n := (readFile_eq_ok.1 h).1

/-- A read of a register group stops only as UnwrittenRead (R28). -/
theorem readFile_error {f : ByteFile} {i n : Nat} {e : Fault}
    (h : readFile f i n = .error e) : e = .unwrittenRead := by
  induction n generalizing i with
  | zero => simp [readFile] at h
  | succ n ih =>
    simp only [readFile] at h
    split at h
    · cases h; rfl
    · split at h
      · simp at h
      · rename_i e' he
        cases h
        exact ih he

/-- A read of bytes one of which holds no value is an UnwrittenRead (R28). -/
theorem readFile_unwritten {f : ByteFile} {i n j : Nat} (hj : j < n)
    (h : f.getD (i + j) none = none) : readFile f i n = .error .unwrittenRead := by
  cases hr : readFile f i n with
  | error e => rw [readFile_error hr]
  | ok bs =>
    obtain ⟨hl, hb⟩ := readFile_eq_ok.1 hr
    have := hb j (by omega)
    rw [h] at this
    cases this

/-- A group that holds values throughout reads as those values. -/
theorem readFile_holding (bs : List Byte) : readFile (holding bs) 0 bs.length = .ok bs :=
  readFile_eq_ok.2 ⟨rfl, fun j hj => by rw [Nat.zero_add]; exact holding_getD hj⟩

@[simp] theorem writeFile_length (f : ByteFile) (i : Nat) (bs : List Byte) :
    (writeFile f i bs).length = f.length := by
  induction bs generalizing f i with
  | nil => rfl
  | cons b bs ih => simp [writeFile, ih]

/-- A write leaves the bytes outside it alone. -/
theorem writeFile_getD_outside (f : ByteFile) (i : Nat) (bs : List Byte) {j : Nat}
    (h : j < i ∨ i + bs.length ≤ j) :
    (writeFile f i bs).getD j none = f.getD j none := by
  induction bs generalizing f i with
  | nil => rfl
  | cons b bs ih =>
    have h' : j < i ∨ i + (bs.length + 1) ≤ j := by simpa using h
    rw [writeFile, ih _ _ (by omega)]
    simp [List.getD, List.getElem?_set_ne (show i ≠ j by omega)]

/-- A write inside the group puts byte j at the first index plus j. -/
theorem writeFile_getD_inside (f : ByteFile) (i : Nat) (bs : List Byte) {j : Nat}
    (h : j < bs.length) (hf : i + bs.length ≤ f.length) :
    (writeFile f i bs).getD (i + j) none = some bs[j] := by
  induction bs generalizing f i j with
  | nil => simp at h
  | cons b bs ih =>
    have hf' : i + (bs.length + 1) ≤ f.length := by simpa using hf
    rw [writeFile]
    cases j with
    | zero =>
      rw [writeFile_getD_outside _ _ _ (.inl (by omega))]
      simp [List.getD, List.getElem?_set_self (show i < f.length by omega)]
    | succ j =>
      have := ih (f.set i (some b)) (i + 1) (j := j) (by simpa using h) (by simp; omega)
      rw [show i + (j + 1) = i + 1 + j by omega, this]
      rfl

end Sys2Proof.Machine
end

