-- ==== Sys2Proof/Laws/Memory.lean ====
section
/-! SUPPORT. The laws of device memory: a read after a write to the same place gives the value
written, a write leaves every other place alone, and every memory operation keeps the canonical
form and the address bound. -/

namespace Sys2Proof.Machine

@[simp] theorem Memory.read_nil (a : Nat) : Memory.read [] a = none := rfl

theorem Memory.read_none_of_lt {m : Memory} {a : Nat} (h : ∀ c ∈ m, a < c.1) :
    Memory.read m a = none := by
  induction m with
  | nil => rfl
  | cons c m ih =>
    have hc := h c (by simp)
    simp only [Memory.read]
    rw [if_neg (by omega)]
    exact ih fun d hd => h d (by simp [hd])

theorem Memory.read_write_same (m : Memory) (a : Nat) (b : Byte) :
    Memory.read (Memory.write m a b) a = some b := by
  induction m with
  | nil => simp [Memory.write, Memory.read]
  | cons c m ih =>
    obtain ⟨c, x⟩ := c
    simp only [Memory.write]
    split
    · simp [Memory.read]
    · split
      · simp [Memory.read]
      · simp only [Memory.read]
        rw [if_neg (by omega), ih]

theorem Memory.read_write_ne (m : Memory) {a a' : Nat} (b : Byte) (h : a' ≠ a) :
    Memory.read (Memory.write m a b) a' = Memory.read m a' := by
  induction m with
  | nil => simp [Memory.write, Memory.read, h]
  | cons c m ih =>
    obtain ⟨c, x⟩ := c
    simp only [Memory.write]
    split
    · simp [Memory.read, h]
    · split
      · subst c; simp [Memory.read, h]
      · simp only [Memory.read, ih]

theorem Memory.mem_write {m : Memory} {a : Nat} {b : Byte} {c : Host.Cell}
    (h : c ∈ Memory.write m a b) : c = (a, b) ∨ c ∈ m := by
  induction m with
  | nil => simp [Memory.write] at h; exact .inl h
  | cons d m ih =>
    obtain ⟨d, x⟩ := d
    simp only [Memory.write] at h
    split at h
    · simpa using h
    · split at h
      · simp only [List.mem_cons] at h ⊢; tauto
      · simp only [List.mem_cons] at h ⊢
        rcases h with h | h
        · exact .inr (.inl h)
        · rcases ih h with h | h
          · exact .inl h
          · exact .inr (.inr h)

theorem Memory.write_wf {m : Memory} (a : Nat) (b : Byte) (h : Memory.wf m) :
    Memory.wf (Memory.write m a b) := by
  induction m with
  | nil => simp [Memory.write, Memory.wf]
  | cons c m ih =>
    obtain ⟨c, x⟩ := c
    have hc := List.pairwise_cons.1 h
    simp only [Memory.write]
    split
    · refine List.pairwise_cons.2 ⟨?_, h⟩
      intro d hd
      rcases List.mem_cons.1 hd with rfl | hd
      · assumption
      · exact Nat.lt_trans ‹_› (hc.1 d hd)
    · split
      · subst c; exact List.pairwise_cons.2 ⟨hc.1, hc.2⟩
      · refine List.pairwise_cons.2 ⟨?_, ih hc.2⟩
        intro d hd
        rcases Memory.mem_write hd with rfl | hd
        · simp only; omega
        · exact hc.1 d hd

theorem Memory.writeSeq_wf {m : Memory} (a : Nat) (bs : List Byte) (h : Memory.wf m) :
    Memory.wf (Memory.writeSeq m a bs) := by
  induction bs generalizing m a with
  | nil => exact h
  | cons b bs ih => exact ih _ (Memory.write_wf a b h)

theorem Memory.mem_writeSeq_lt {m : Memory} {a : Nat} {bs : List Byte} {B : Nat}
    (hm : ∀ c ∈ m, c.1 < B) (hb : bs = [] ∨ a + bs.length ≤ B) :
    ∀ c ∈ Memory.writeSeq m a bs, c.1 < B := by
  induction bs generalizing m a with
  | nil => exact hm
  | cons b bs ih =>
    have hb' : a + (bs.length + 1) ≤ B := by simpa using hb
    refine ih (m := Memory.write m a b) ?_ (.inr (by omega))
    intro c hc
    rcases Memory.mem_write hc with rfl | hc
    · simp only; omega
    · exact hm c hc

/-- A byte-sequence write leaves every address outside it alone. -/
theorem Memory.read_writeSeq_outside (m : Memory) (a : Nat) (bs : List Byte) {a' : Nat}
    (h : a' < a ∨ a + bs.length ≤ a') :
    Memory.read (Memory.writeSeq m a bs) a' = Memory.read m a' := by
  induction bs generalizing m a with
  | nil => rfl
  | cons b bs ih =>
    have h' : a' < a ∨ a + (bs.length + 1) ≤ a' := by simpa using h
    rw [Memory.writeSeq, ih _ _ (by omega), Memory.read_write_ne _ _ (by omega)]

/-- A byte-sequence write puts byte j at the base address plus j (R58). -/
theorem Memory.read_writeSeq_inside (m : Memory) (a : Nat) (bs : List Byte) {j : Nat}
    (h : j < bs.length) :
    Memory.read (Memory.writeSeq m a bs) (a + j) = some bs[j] := by
  induction bs generalizing m a j with
  | nil => simp at h
  | cons b bs ih =>
    rw [Memory.writeSeq]
    cases j with
    | zero =>
      rw [Memory.read_writeSeq_outside _ _ _ (.inl (by omega))]
      exact Memory.read_write_same m a b
    | succ j =>
      have := ih (Memory.write m a b) (a + 1) (j := j) (by simpa using h)
      rw [show a + (j + 1) = a + 1 + j by omega, this]
      rfl

/-- The byte an address holds depends on what was written there only. -/
theorem Memory.byte_congr {m m' : Memory} {a : Nat} (h : Memory.read m' a = Memory.read m a) :
    Memory.byte m' a = Memory.byte m a := by simp only [Memory.byte, h]

theorem Memory.byte_of_read {m : Memory} {a : Nat} {b : Byte} (h : Memory.read m a = some b) :
    Memory.byte m a = b := by simp only [Memory.byte, h]

theorem Memory.byte_writeSeq_inside (m : Memory) (a : Nat) (bs : List Byte) {j : Nat}
    (h : j < bs.length) : Memory.byte (Memory.writeSeq m a bs) (a + j) = bs[j] :=
  Memory.byte_of_read (Memory.read_writeSeq_inside m a bs h)

theorem Memory.byte_writeSeq_outside (m : Memory) (a : Nat) (bs : List Byte) {a' : Nat}
    (h : a' < a ∨ a + bs.length ≤ a') :
    Memory.byte (Memory.writeSeq m a bs) a' = Memory.byte m a' :=
  Memory.byte_congr (Memory.read_writeSeq_outside m a bs h)

@[simp] theorem Memory.bytes_length (m : Memory) (a n : Nat) : (Memory.bytes m a n).length = n := by
  induction n generalizing a with
  | zero => rfl
  | succ n ih => simp [Memory.bytes, ih]

/-- What a sequence read gives, byte by byte (R57). -/
@[simp] theorem Memory.bytes_getElem (m : Memory) (a n j : Nat)
    (h : j < (Memory.bytes m a n).length) : (Memory.bytes m a n)[j] = Memory.byte m (a + j) := by
  induction n generalizing a j with
  | zero => simp [Memory.bytes] at h
  | succ n ih =>
    cases j with
    | zero => rfl
    | succ j =>
      simp only [Memory.bytes, List.getElem_cons_succ]
      rw [ih, Nat.add_assoc, Nat.add_comm 1 j]

/-- A sequence read after a sequence write to the same place gives the bytes written (R65). -/
theorem Memory.bytes_writeSeq_same (m : Memory) (a : Nat) (bs : List Byte) :
    Memory.bytes (Memory.writeSeq m a bs) a bs.length = bs :=
  List.ext_getElem (by simp) fun j _ h => by simp [Memory.byte_writeSeq_inside m a bs h]

/-- A sequence read depends on the bytes at its addresses only. -/
theorem Memory.bytes_congr {m m' : Memory} {a n : Nat}
    (h : ∀ j < n, Memory.byte m' (a + j) = Memory.byte m (a + j)) :
    Memory.bytes m' a n = Memory.bytes m a n :=
  List.ext_getElem (by simp) fun j h1 _ => by simpa using h j (by simpa using h1)

end Sys2Proof.Machine
end

