-- ==== Sys2Proof/Laws/State.lean ====
section
/-! SUPPORT. One lemma per field per named update of State, true by rfl, so that no later proof unfolds
a record update; and the small lemmas of State's accessors. -/

namespace Sys2Proof.Machine

/-! State.raise. -/

@[simp] theorem State.raise_cfg (s : State) (e : Nibble) : (s.raise e).cfg = s.cfg := rfl
@[simp] theorem State.raise_regS (s : State) (e : Nibble) : (s.raise e).regS = s.regS := rfl
@[simp] theorem State.raise_regW (s : State) (e : Nibble) : (s.raise e).regW = s.regW := rfl
@[simp] theorem State.raise_rcon (s : State) (e : Nibble) : (s.raise e).rcon = s.rcon := rfl
@[simp] theorem State.raise_rk (s : State) (e : Nibble) : (s.raise e).rk = s.rk := rfl
@[simp] theorem State.raise_ph (s : State) (e : Nibble) : (s.raise e).ph = Op.fin := rfl
@[simp] theorem State.raise_blk (s : State) (e : Nibble) : (s.raise e).blk = s.blk := rfl
@[simp] theorem State.raise_rnd (s : State) (e : Nibble) : (s.raise e).rnd = s.rnd := rfl
@[simp] theorem State.raise_kpos (s : State) (e : Nibble) : (s.raise e).kpos = s.kpos := rfl
@[simp] theorem State.raise_nblk (s : State) (e : Nibble) : (s.raise e).nblk = s.nblk := rfl
@[simp] theorem State.raise_rkv (s : State) (e : Nibble) : (s.raise e).rkv = s.rkv := rfl
@[simp] theorem State.raise_busy (s : State) (e : Nibble) : (s.raise e).busy = s.busy := rfl
@[simp] theorem State.raise_done (s : State) (e : Nibble) : (s.raise e).done = s.done := rfl
@[simp] theorem State.raise_err (s : State) (e : Nibble) : (s.raise e).err = e := rfl
@[simp] theorem State.raise_ptAddr (s : State) (e : Nibble) : (s.raise e).ptAddr = s.ptAddr := rfl
@[simp] theorem State.raise_ptLen (s : State) (e : Nibble) : (s.raise e).ptLen = s.ptLen := rfl
@[simp] theorem State.raise_keyAddr (s : State) (e : Nibble) :
    (s.raise e).keyAddr = s.keyAddr := rfl
@[simp] theorem State.raise_keyLen (s : State) (e : Nibble) : (s.raise e).keyLen = s.keyLen := rfl
@[simp] theorem State.raise_ivAddr (s : State) (e : Nibble) : (s.raise e).ivAddr = s.ivAddr := rfl
@[simp] theorem State.raise_ivLen (s : State) (e : Nibble) : (s.raise e).ivLen = s.ivLen := rfl
@[simp] theorem State.raise_ctAddr (s : State) (e : Nibble) : (s.raise e).ctAddr = s.ctAddr := rfl
@[simp] theorem State.raise_envFail (s : State) (e : Nibble) :
    (s.raise e).envFail = s.envFail := rfl
@[simp] theorem State.raise_mem (s : State) (e : Nibble) : (s.raise e).mem = s.mem := rfl
@[simp] theorem State.raise_draws (s : State) (e : Nibble) : (s.raise e).draws = s.draws := rfl
@[simp] theorem State.raise_rdata (s : State) (e : Nibble) : (s.raise e).rdata = s.rdata := rfl
@[simp] theorem State.raise_inputs (s : State) (e : Nibble) : (s.raise e).inputs = s.inputs := rfl

/-! State.startFlags. -/

@[simp] theorem State.startFlags_cfg (s : State) : s.startFlags.cfg = s.cfg := rfl
@[simp] theorem State.startFlags_regS (s : State) : s.startFlags.regS = s.regS := rfl
@[simp] theorem State.startFlags_regW (s : State) : s.startFlags.regW = s.regW := rfl
@[simp] theorem State.startFlags_rcon (s : State) : s.startFlags.rcon = s.rcon := rfl
@[simp] theorem State.startFlags_rk (s : State) : s.startFlags.rk = s.rk := rfl
@[simp] theorem State.startFlags_ph (s : State) : s.startFlags.ph = s.ph := rfl
@[simp] theorem State.startFlags_blk (s : State) : s.startFlags.blk = s.blk := rfl
@[simp] theorem State.startFlags_rnd (s : State) : s.startFlags.rnd = s.rnd := rfl
@[simp] theorem State.startFlags_kpos (s : State) : s.startFlags.kpos = s.kpos := rfl
@[simp] theorem State.startFlags_nblk (s : State) : s.startFlags.nblk = s.nblk := rfl
@[simp] theorem State.startFlags_rkv (s : State) : s.startFlags.rkv = s.rkv := rfl
@[simp] theorem State.startFlags_busy (s : State) : s.startFlags.busy = true := rfl
@[simp] theorem State.startFlags_done (s : State) : s.startFlags.done = false := rfl
@[simp] theorem State.startFlags_err (s : State) : s.startFlags.err = Err.ok := rfl
@[simp] theorem State.startFlags_ptAddr (s : State) : s.startFlags.ptAddr = s.ptAddr := rfl
@[simp] theorem State.startFlags_ptLen (s : State) : s.startFlags.ptLen = s.ptLen := rfl
@[simp] theorem State.startFlags_keyAddr (s : State) : s.startFlags.keyAddr = s.keyAddr := rfl
@[simp] theorem State.startFlags_keyLen (s : State) : s.startFlags.keyLen = s.keyLen := rfl
@[simp] theorem State.startFlags_ivAddr (s : State) : s.startFlags.ivAddr = s.ivAddr := rfl
@[simp] theorem State.startFlags_ivLen (s : State) : s.startFlags.ivLen = s.ivLen := rfl
@[simp] theorem State.startFlags_ctAddr (s : State) : s.startFlags.ctAddr = s.ctAddr := rfl
@[simp] theorem State.startFlags_envFail (s : State) : s.startFlags.envFail = s.envFail := rfl
@[simp] theorem State.startFlags_mem (s : State) : s.startFlags.mem = s.mem := rfl
@[simp] theorem State.startFlags_draws (s : State) : s.startFlags.draws = s.draws := rfl
@[simp] theorem State.startFlags_rdata (s : State) : s.startFlags.rdata = s.rdata := rfl
@[simp] theorem State.startFlags_inputs (s : State) : s.startFlags.inputs = s.inputs := rfl

/-! State.endFlags. -/

@[simp] theorem State.endFlags_cfg (s : State) : s.endFlags.cfg = s.cfg := rfl
@[simp] theorem State.endFlags_regS (s : State) : s.endFlags.regS = s.regS := rfl
@[simp] theorem State.endFlags_regW (s : State) : s.endFlags.regW = s.regW := rfl
@[simp] theorem State.endFlags_rcon (s : State) : s.endFlags.rcon = s.rcon := rfl
@[simp] theorem State.endFlags_rk (s : State) : s.endFlags.rk = s.rk := rfl
@[simp] theorem State.endFlags_ph (s : State) : s.endFlags.ph = s.ph := rfl
@[simp] theorem State.endFlags_blk (s : State) : s.endFlags.blk = s.blk := rfl
@[simp] theorem State.endFlags_rnd (s : State) : s.endFlags.rnd = s.rnd := rfl
@[simp] theorem State.endFlags_kpos (s : State) : s.endFlags.kpos = s.kpos := rfl
@[simp] theorem State.endFlags_nblk (s : State) : s.endFlags.nblk = s.nblk := rfl
@[simp] theorem State.endFlags_rkv (s : State) : s.endFlags.rkv = false := rfl
@[simp] theorem State.endFlags_busy (s : State) : s.endFlags.busy = false := rfl
@[simp] theorem State.endFlags_done (s : State) : s.endFlags.done = true := rfl
@[simp] theorem State.endFlags_err (s : State) : s.endFlags.err = s.err := rfl
@[simp] theorem State.endFlags_ptAddr (s : State) : s.endFlags.ptAddr = s.ptAddr := rfl
@[simp] theorem State.endFlags_ptLen (s : State) : s.endFlags.ptLen = s.ptLen := rfl
@[simp] theorem State.endFlags_keyAddr (s : State) : s.endFlags.keyAddr = s.keyAddr := rfl
@[simp] theorem State.endFlags_keyLen (s : State) : s.endFlags.keyLen = s.keyLen := rfl
@[simp] theorem State.endFlags_ivAddr (s : State) : s.endFlags.ivAddr = s.ivAddr := rfl
@[simp] theorem State.endFlags_ivLen (s : State) : s.endFlags.ivLen = s.ivLen := rfl
@[simp] theorem State.endFlags_ctAddr (s : State) : s.endFlags.ctAddr = s.ctAddr := rfl
@[simp] theorem State.endFlags_envFail (s : State) : s.endFlags.envFail = s.envFail := rfl
@[simp] theorem State.endFlags_mem (s : State) : s.endFlags.mem = s.mem := rfl
@[simp] theorem State.endFlags_draws (s : State) : s.endFlags.draws = s.draws := rfl
@[simp] theorem State.endFlags_rdata (s : State) : s.endFlags.rdata = s.rdata := rfl
@[simp] theorem State.endFlags_inputs (s : State) : s.endFlags.inputs = s.inputs := rfl

/-! State.startCall. -/

@[simp] theorem State.startCall_cfg (s : State) : s.startCall.cfg = s.cfg := rfl
@[simp] theorem State.startCall_regS (s : State) : s.startCall.regS = s.regS := rfl
@[simp] theorem State.startCall_regW (s : State) : s.startCall.regW = s.regW := rfl
@[simp] theorem State.startCall_rcon (s : State) : s.startCall.rcon = s.rcon := rfl
@[simp] theorem State.startCall_rk (s : State) : s.startCall.rk = s.rk := rfl
@[simp] theorem State.startCall_ph (s : State) : s.startCall.ph = Op.chk := rfl
@[simp] theorem State.startCall_blk (s : State) : s.startCall.blk = 0 := rfl
@[simp] theorem State.startCall_rnd (s : State) : s.startCall.rnd = 0#4 := rfl
@[simp] theorem State.startCall_kpos (s : State) : s.startCall.kpos = 16#8 := rfl
@[simp] theorem State.startCall_nblk (s : State) : s.startCall.nblk = s.nblk := rfl
@[simp] theorem State.startCall_rkv (s : State) : s.startCall.rkv = s.rkv := rfl
@[simp] theorem State.startCall_busy (s : State) : s.startCall.busy = true := rfl
@[simp] theorem State.startCall_done (s : State) : s.startCall.done = false := rfl
@[simp] theorem State.startCall_err (s : State) : s.startCall.err = Err.ok := rfl
@[simp] theorem State.startCall_ptAddr (s : State) : s.startCall.ptAddr = s.ptAddr := rfl
@[simp] theorem State.startCall_ptLen (s : State) : s.startCall.ptLen = s.ptLen := rfl
@[simp] theorem State.startCall_keyAddr (s : State) : s.startCall.keyAddr = s.keyAddr := rfl
@[simp] theorem State.startCall_keyLen (s : State) : s.startCall.keyLen = s.keyLen := rfl
@[simp] theorem State.startCall_ivAddr (s : State) : s.startCall.ivAddr = s.ivAddr := rfl
@[simp] theorem State.startCall_ivLen (s : State) : s.startCall.ivLen = s.ivLen := rfl
@[simp] theorem State.startCall_ctAddr (s : State) : s.startCall.ctAddr = s.ctAddr := rfl
@[simp] theorem State.startCall_envFail (s : State) : s.startCall.envFail = s.envFail := rfl
@[simp] theorem State.startCall_mem (s : State) : s.startCall.mem = s.mem := rfl
@[simp] theorem State.startCall_draws (s : State) : s.startCall.draws = s.draws := rfl
@[simp] theorem State.startCall_rdata (s : State) : s.startCall.rdata = s.rdata := rfl
@[simp] theorem State.startCall_inputs (s : State) : s.startCall.inputs = s.inputs := rfl

/-! State.spoil. -/

@[simp] theorem State.spoil_cfg (s : State) (a n : Nat) : (s.spoil a n).cfg = s.cfg := rfl
@[simp] theorem State.spoil_regS (s : State) (a n : Nat) : (s.spoil a n).regS = s.regS := rfl
@[simp] theorem State.spoil_regW (s : State) (a n : Nat) : (s.spoil a n).regW = s.regW := rfl
@[simp] theorem State.spoil_rcon (s : State) (a n : Nat) : (s.spoil a n).rcon = s.rcon := rfl
@[simp] theorem State.spoil_rk (s : State) (a n : Nat) : (s.spoil a n).rk = s.rk := rfl
@[simp] theorem State.spoil_ph (s : State) (a n : Nat) : (s.spoil a n).ph = s.ph := rfl
@[simp] theorem State.spoil_blk (s : State) (a n : Nat) : (s.spoil a n).blk = s.blk := rfl
@[simp] theorem State.spoil_rnd (s : State) (a n : Nat) : (s.spoil a n).rnd = s.rnd := rfl
@[simp] theorem State.spoil_kpos (s : State) (a n : Nat) : (s.spoil a n).kpos = s.kpos := rfl
@[simp] theorem State.spoil_nblk (s : State) (a n : Nat) : (s.spoil a n).nblk = s.nblk := rfl
@[simp] theorem State.spoil_rkv (s : State) (a n : Nat) : (s.spoil a n).rkv = s.rkv := rfl
@[simp] theorem State.spoil_busy (s : State) (a n : Nat) : (s.spoil a n).busy = s.busy := rfl
@[simp] theorem State.spoil_done (s : State) (a n : Nat) : (s.spoil a n).done = s.done := rfl
@[simp] theorem State.spoil_err (s : State) (a n : Nat) : (s.spoil a n).err = s.err := rfl
@[simp] theorem State.spoil_ptAddr (s : State) (a n : Nat) : (s.spoil a n).ptAddr = s.ptAddr := rfl
@[simp] theorem State.spoil_ptLen (s : State) (a n : Nat) : (s.spoil a n).ptLen = s.ptLen := rfl
@[simp] theorem State.spoil_keyAddr (s : State) (a n : Nat) :
    (s.spoil a n).keyAddr = s.keyAddr := rfl
@[simp] theorem State.spoil_keyLen (s : State) (a n : Nat) : (s.spoil a n).keyLen = s.keyLen := rfl
@[simp] theorem State.spoil_ivAddr (s : State) (a n : Nat) : (s.spoil a n).ivAddr = s.ivAddr := rfl
@[simp] theorem State.spoil_ivLen (s : State) (a n : Nat) : (s.spoil a n).ivLen = s.ivLen := rfl
@[simp] theorem State.spoil_ctAddr (s : State) (a n : Nat) : (s.spoil a n).ctAddr = s.ctAddr := rfl
@[simp] theorem State.spoil_envFail (s : State) (a n : Nat) :
    (s.spoil a n).envFail = s.envFail := rfl
@[simp] theorem State.spoil_mem (s : State) (a n : Nat) :
    (s.spoil a n).mem = Memory.writeSeq s.mem a (drawBytes s.draws n) := rfl
@[simp] theorem State.spoil_draws (s : State) (a n : Nat) : (s.spoil a n).draws = s.draws + n := rfl
@[simp] theorem State.spoil_rdata (s : State) (a n : Nat) : (s.spoil a n).rdata = s.rdata := rfl
@[simp] theorem State.spoil_inputs (s : State) (a n : Nat) : (s.spoil a n).inputs = s.inputs := rfl

/-! State.discard. -/

@[simp] theorem State.discard_cfg (s : State) : s.discard.cfg = s.cfg := rfl
@[simp] theorem State.discard_regS (s : State) : s.discard.regS = discarded 16 := rfl
@[simp] theorem State.discard_regW (s : State) : s.discard.regW = discarded 4 := rfl
@[simp] theorem State.discard_rcon (s : State) : s.discard.rcon = none := rfl
@[simp] theorem State.discard_rk (s : State) : s.discard.rk = discarded 176 := rfl
@[simp] theorem State.discard_ph (s : State) : s.discard.ph = s.ph := rfl
@[simp] theorem State.discard_blk (s : State) : s.discard.blk = s.blk := rfl
@[simp] theorem State.discard_rnd (s : State) : s.discard.rnd = s.rnd := rfl
@[simp] theorem State.discard_kpos (s : State) : s.discard.kpos = s.kpos := rfl
@[simp] theorem State.discard_nblk (s : State) : s.discard.nblk = none := rfl
@[simp] theorem State.discard_rkv (s : State) : s.discard.rkv = s.rkv := rfl
@[simp] theorem State.discard_busy (s : State) : s.discard.busy = s.busy := rfl
@[simp] theorem State.discard_done (s : State) : s.discard.done = s.done := rfl
@[simp] theorem State.discard_err (s : State) : s.discard.err = s.err := rfl
@[simp] theorem State.discard_ptAddr (s : State) : s.discard.ptAddr = s.ptAddr := rfl
@[simp] theorem State.discard_ptLen (s : State) : s.discard.ptLen = s.ptLen := rfl
@[simp] theorem State.discard_keyAddr (s : State) : s.discard.keyAddr = s.keyAddr := rfl
@[simp] theorem State.discard_keyLen (s : State) : s.discard.keyLen = s.keyLen := rfl
@[simp] theorem State.discard_ivAddr (s : State) : s.discard.ivAddr = s.ivAddr := rfl
@[simp] theorem State.discard_ivLen (s : State) : s.discard.ivLen = s.ivLen := rfl
@[simp] theorem State.discard_ctAddr (s : State) : s.discard.ctAddr = s.ctAddr := rfl
@[simp] theorem State.discard_envFail (s : State) : s.discard.envFail = s.envFail := rfl
@[simp] theorem State.discard_mem (s : State) : s.discard.mem = s.mem := rfl
@[simp] theorem State.discard_draws (s : State) : s.discard.draws = s.draws := rfl
@[simp] theorem State.discard_rdata (s : State) : s.discard.rdata = s.rdata := rfl
@[simp] theorem State.discard_inputs (s : State) : s.discard.inputs = s.inputs := rfl

/-! State.goIdle. -/

@[simp] theorem State.goIdle_cfg (s : State) : s.goIdle.cfg = s.cfg := rfl
@[simp] theorem State.goIdle_regS (s : State) : s.goIdle.regS = s.regS := rfl
@[simp] theorem State.goIdle_regW (s : State) : s.goIdle.regW = s.regW := rfl
@[simp] theorem State.goIdle_rcon (s : State) : s.goIdle.rcon = s.rcon := rfl
@[simp] theorem State.goIdle_rk (s : State) : s.goIdle.rk = s.rk := rfl
@[simp] theorem State.goIdle_ph (s : State) : s.goIdle.ph = Op.idle := rfl
@[simp] theorem State.goIdle_blk (s : State) : s.goIdle.blk = 0 := rfl
@[simp] theorem State.goIdle_rnd (s : State) : s.goIdle.rnd = 0#4 := rfl
@[simp] theorem State.goIdle_kpos (s : State) : s.goIdle.kpos = 16#8 := rfl
@[simp] theorem State.goIdle_nblk (s : State) : s.goIdle.nblk = s.nblk := rfl
@[simp] theorem State.goIdle_rkv (s : State) : s.goIdle.rkv = s.rkv := rfl
@[simp] theorem State.goIdle_busy (s : State) : s.goIdle.busy = s.busy := rfl
@[simp] theorem State.goIdle_done (s : State) : s.goIdle.done = s.done := rfl
@[simp] theorem State.goIdle_err (s : State) : s.goIdle.err = s.err := rfl
@[simp] theorem State.goIdle_ptAddr (s : State) : s.goIdle.ptAddr = s.ptAddr := rfl
@[simp] theorem State.goIdle_ptLen (s : State) : s.goIdle.ptLen = s.ptLen := rfl
@[simp] theorem State.goIdle_keyAddr (s : State) : s.goIdle.keyAddr = s.keyAddr := rfl
@[simp] theorem State.goIdle_keyLen (s : State) : s.goIdle.keyLen = s.keyLen := rfl
@[simp] theorem State.goIdle_ivAddr (s : State) : s.goIdle.ivAddr = s.ivAddr := rfl
@[simp] theorem State.goIdle_ivLen (s : State) : s.goIdle.ivLen = s.ivLen := rfl
@[simp] theorem State.goIdle_ctAddr (s : State) : s.goIdle.ctAddr = s.ctAddr := rfl
@[simp] theorem State.goIdle_envFail (s : State) : s.goIdle.envFail = s.envFail := rfl
@[simp] theorem State.goIdle_mem (s : State) : s.goIdle.mem = s.mem := rfl
@[simp] theorem State.goIdle_draws (s : State) : s.goIdle.draws = s.draws := rfl
@[simp] theorem State.goIdle_rdata (s : State) : s.goIdle.rdata = s.rdata := rfl
@[simp] theorem State.goIdle_inputs (s : State) : s.goIdle.inputs = s.inputs := rfl

/-! State.answer. -/

@[simp] theorem State.answer_cfg (s : State) (v : Nat) : (s.answer v).cfg = s.cfg := rfl
@[simp] theorem State.answer_regS (s : State) (v : Nat) : (s.answer v).regS = s.regS := rfl
@[simp] theorem State.answer_regW (s : State) (v : Nat) : (s.answer v).regW = s.regW := rfl
@[simp] theorem State.answer_rcon (s : State) (v : Nat) : (s.answer v).rcon = s.rcon := rfl
@[simp] theorem State.answer_rk (s : State) (v : Nat) : (s.answer v).rk = s.rk := rfl
@[simp] theorem State.answer_ph (s : State) (v : Nat) : (s.answer v).ph = s.ph := rfl
@[simp] theorem State.answer_blk (s : State) (v : Nat) : (s.answer v).blk = s.blk := rfl
@[simp] theorem State.answer_rnd (s : State) (v : Nat) : (s.answer v).rnd = s.rnd := rfl
@[simp] theorem State.answer_kpos (s : State) (v : Nat) : (s.answer v).kpos = s.kpos := rfl
@[simp] theorem State.answer_nblk (s : State) (v : Nat) : (s.answer v).nblk = s.nblk := rfl
@[simp] theorem State.answer_rkv (s : State) (v : Nat) : (s.answer v).rkv = s.rkv := rfl
@[simp] theorem State.answer_busy (s : State) (v : Nat) : (s.answer v).busy = s.busy := rfl
@[simp] theorem State.answer_done (s : State) (v : Nat) : (s.answer v).done = s.done := rfl
@[simp] theorem State.answer_err (s : State) (v : Nat) : (s.answer v).err = s.err := rfl
@[simp] theorem State.answer_ptAddr (s : State) (v : Nat) : (s.answer v).ptAddr = s.ptAddr := rfl
@[simp] theorem State.answer_ptLen (s : State) (v : Nat) : (s.answer v).ptLen = s.ptLen := rfl
@[simp] theorem State.answer_keyAddr (s : State) (v : Nat) : (s.answer v).keyAddr = s.keyAddr := rfl
@[simp] theorem State.answer_keyLen (s : State) (v : Nat) : (s.answer v).keyLen = s.keyLen := rfl
@[simp] theorem State.answer_ivAddr (s : State) (v : Nat) : (s.answer v).ivAddr = s.ivAddr := rfl
@[simp] theorem State.answer_ivLen (s : State) (v : Nat) : (s.answer v).ivLen = s.ivLen := rfl
@[simp] theorem State.answer_ctAddr (s : State) (v : Nat) : (s.answer v).ctAddr = s.ctAddr := rfl
@[simp] theorem State.answer_envFail (s : State) (v : Nat) : (s.answer v).envFail = s.envFail := rfl
@[simp] theorem State.answer_mem (s : State) (v : Nat) : (s.answer v).mem = s.mem := rfl
@[simp] theorem State.answer_draws (s : State) (v : Nat) : (s.answer v).draws = s.draws := rfl
@[simp] theorem State.answer_rdata (s : State) (v : Nat) : (s.answer v).rdata = some v := rfl
@[simp] theorem State.answer_inputs (s : State) (v : Nat) : (s.answer v).inputs = s.inputs := rfl

/-! State.resetEngine. -/

@[simp] theorem State.resetEngine_cfg (s : State) : s.resetEngine.cfg = s.cfg := rfl
@[simp] theorem State.resetEngine_regS (s : State) :
    s.resetEngine.regS = List.replicate 16 none := rfl
@[simp] theorem State.resetEngine_regW (s : State) :
    s.resetEngine.regW = List.replicate 4 none := rfl
@[simp] theorem State.resetEngine_rcon (s : State) : s.resetEngine.rcon = none := rfl
@[simp] theorem State.resetEngine_rk (s : State) : s.resetEngine.rk = List.replicate 176 none := rfl
@[simp] theorem State.resetEngine_ph (s : State) : s.resetEngine.ph = 0x0#4 := rfl
@[simp] theorem State.resetEngine_blk (s : State) : s.resetEngine.blk = 0 := rfl
@[simp] theorem State.resetEngine_rnd (s : State) : s.resetEngine.rnd = 0#4 := rfl
@[simp] theorem State.resetEngine_kpos (s : State) : s.resetEngine.kpos = 16#8 := rfl
@[simp] theorem State.resetEngine_nblk (s : State) : s.resetEngine.nblk = none := rfl
@[simp] theorem State.resetEngine_rkv (s : State) : s.resetEngine.rkv = false := rfl
@[simp] theorem State.resetEngine_busy (s : State) : s.resetEngine.busy = false := rfl
@[simp] theorem State.resetEngine_done (s : State) : s.resetEngine.done = false := rfl
@[simp] theorem State.resetEngine_err (s : State) : s.resetEngine.err = 0#4 := rfl
@[simp] theorem State.resetEngine_ptAddr (s : State) : s.resetEngine.ptAddr = none := rfl
@[simp] theorem State.resetEngine_ptLen (s : State) : s.resetEngine.ptLen = none := rfl
@[simp] theorem State.resetEngine_keyAddr (s : State) : s.resetEngine.keyAddr = none := rfl
@[simp] theorem State.resetEngine_keyLen (s : State) : s.resetEngine.keyLen = none := rfl
@[simp] theorem State.resetEngine_ivAddr (s : State) : s.resetEngine.ivAddr = none := rfl
@[simp] theorem State.resetEngine_ivLen (s : State) : s.resetEngine.ivLen = none := rfl
@[simp] theorem State.resetEngine_ctAddr (s : State) : s.resetEngine.ctAddr = none := rfl
@[simp] theorem State.resetEngine_envFail (s : State) : s.resetEngine.envFail = s.envFail := rfl
@[simp] theorem State.resetEngine_mem (s : State) : s.resetEngine.mem = s.mem := rfl
@[simp] theorem State.resetEngine_draws (s : State) : s.resetEngine.draws = s.draws := rfl
@[simp] theorem State.resetEngine_rdata (s : State) : s.resetEngine.rdata = s.rdata := rfl
@[simp] theorem State.resetEngine_inputs (s : State) : s.resetEngine.inputs = s.inputs := rfl

/-! State.setDesc: only the register written changes. -/

@[simp] theorem State.setDesc_cfg (s : State) (v : Nat) (d : Desc) :
    (s.setDesc v d).cfg = s.cfg := by cases d <;> rfl
@[simp] theorem State.setDesc_regS (s : State) (v : Nat) (d : Desc) :
    (s.setDesc v d).regS = s.regS := by cases d <;> rfl
@[simp] theorem State.setDesc_regW (s : State) (v : Nat) (d : Desc) :
    (s.setDesc v d).regW = s.regW := by cases d <;> rfl
@[simp] theorem State.setDesc_rcon (s : State) (v : Nat) (d : Desc) :
    (s.setDesc v d).rcon = s.rcon := by cases d <;> rfl
@[simp] theorem State.setDesc_rk (s : State) (v : Nat) (d : Desc) :
    (s.setDesc v d).rk = s.rk := by cases d <;> rfl
@[simp] theorem State.setDesc_ph (s : State) (v : Nat) (d : Desc) :
    (s.setDesc v d).ph = s.ph := by cases d <;> rfl
@[simp] theorem State.setDesc_blk (s : State) (v : Nat) (d : Desc) :
    (s.setDesc v d).blk = s.blk := by cases d <;> rfl
@[simp] theorem State.setDesc_rnd (s : State) (v : Nat) (d : Desc) :
    (s.setDesc v d).rnd = s.rnd := by cases d <;> rfl
@[simp] theorem State.setDesc_kpos (s : State) (v : Nat) (d : Desc) :
    (s.setDesc v d).kpos = s.kpos := by cases d <;> rfl
@[simp] theorem State.setDesc_nblk (s : State) (v : Nat) (d : Desc) :
    (s.setDesc v d).nblk = s.nblk := by cases d <;> rfl
@[simp] theorem State.setDesc_rkv (s : State) (v : Nat) (d : Desc) :
    (s.setDesc v d).rkv = s.rkv := by cases d <;> rfl
@[simp] theorem State.setDesc_busy (s : State) (v : Nat) (d : Desc) :
    (s.setDesc v d).busy = s.busy := by cases d <;> rfl
@[simp] theorem State.setDesc_done (s : State) (v : Nat) (d : Desc) :
    (s.setDesc v d).done = s.done := by cases d <;> rfl
@[simp] theorem State.setDesc_err (s : State) (v : Nat) (d : Desc) :
    (s.setDesc v d).err = s.err := by cases d <;> rfl
@[simp] theorem State.setDesc_envFail (s : State) (v : Nat) (d : Desc) :
    (s.setDesc v d).envFail = s.envFail := by cases d <;> rfl
@[simp] theorem State.setDesc_mem (s : State) (v : Nat) (d : Desc) :
    (s.setDesc v d).mem = s.mem := by cases d <;> rfl
@[simp] theorem State.setDesc_draws (s : State) (v : Nat) (d : Desc) :
    (s.setDesc v d).draws = s.draws := by cases d <;> rfl
@[simp] theorem State.setDesc_rdata (s : State) (v : Nat) (d : Desc) :
    (s.setDesc v d).rdata = s.rdata := by cases d <;> rfl
@[simp] theorem State.setDesc_inputs (s : State) (v : Nat) (d : Desc) :
    (s.setDesc v d).inputs = s.inputs := by cases d <;> rfl

theorem State.desc_setDesc_same (s : State) (v : Nat) (d : Desc) :
    (s.setDesc v d).desc d = some v := by cases d <;> rfl

theorem State.desc_setDesc_ne (s : State) (v : Nat) {d e : Desc} (h : e ≠ d) :
    (s.setDesc v d).desc e = s.desc e := by cases d <;> cases e <;> first | rfl | exact absurd rfl h

/-! The small lemmas of the accessors. -/

@[simp] theorem State.desc_ptAddr (s : State) : s.desc .ptAddr = s.ptAddr := rfl
@[simp] theorem State.desc_ptLen (s : State) : s.desc .ptLen = s.ptLen := rfl
@[simp] theorem State.desc_keyAddr (s : State) : s.desc .keyAddr = s.keyAddr := rfl
@[simp] theorem State.desc_keyLen (s : State) : s.desc .keyLen = s.keyLen := rfl
@[simp] theorem State.desc_ivAddr (s : State) : s.desc .ivAddr = s.ivAddr := rfl
@[simp] theorem State.desc_ivLen (s : State) : s.desc .ivLen = s.ivLen := rfl
@[simp] theorem State.desc_ctAddr (s : State) : s.desc .ctAddr = s.ctAddr := rfl

theorem State.descWritten_iff (s : State) :
    s.descWritten = true ↔ ∀ d : Desc, (s.desc d).isSome = true := by
  constructor
  · intro h d
    simp only [State.descWritten, Bool.and_eq_true] at h
    obtain ⟨⟨⟨⟨⟨⟨h1, h2⟩, h3⟩, h4⟩, h5⟩, h6⟩, h7⟩ := h
    cases d <;> assumption
  · intro h
    simp only [State.descWritten, Bool.and_eq_true]
    exact ⟨⟨⟨⟨⟨⟨h .ptAddr, h .ptLen⟩, h .keyAddr⟩, h .keyLen⟩, h .ivAddr⟩, h .ivLen⟩, h .ctAddr⟩

theorem Desc.ofNumber_none_iff (r : Nat) : Desc.ofNumber r = none ↔ r < 2 ∨ 9 ≤ r := by
  constructor
  · intro h
    by_contra hr
    have : r = 2 ∨ r = 3 ∨ r = 4 ∨ r = 5 ∨ r = 6 ∨ r = 7 ∨ r = 8 := by omega
    rcases this with rfl | rfl | rfl | rfl | rfl | rfl | rfl <;> simp [Desc.ofNumber] at h
  · intro h
    unfold Desc.ofNumber
    split <;> first | omega | rfl

end Sys2Proof.Machine
end

