-- ==== Sys2Proof/Laws/Ops.lean ====
section
/-! SUPPORT. One lemma for each shared operation that says once everything it can do: when it
answers, with what, and how it can stop. Later proofs cite these and do not unfold the operations. -/

namespace Sys2Proof.Machine

@[simp] theorem attempt_ok {α : Type} (a : α) (k : α → Result) : attempt (.ok a) k = k a := rfl

@[simp] theorem attempt_error {α : Type} (f : Fault) (k : α → Result) :
    attempt (.error f) k = .fault f := rfl

theorem attempt_eq_next {α : Type} {e : Except Fault α} {k : α → Result} {t : State} :
    attempt e k = .next t ↔ ∃ a, e = .ok a ∧ k a = .next t := by
  cases e <;> simp [attempt]

theorem attempt_eq_fault {α : Type} {e : Except Fault α} {k : α → Result} {f : Fault} :
    attempt e k = .fault f ↔ e = .error f ∨ ∃ a, e = .ok a ∧ k a = .fault f := by
  cases e <;> simp [attempt]

theorem attempt_eq_refused {α : Type} {e : Except Fault α} {k : α → Result} {r : Refusal} :
    attempt e k = .refused r ↔ ∃ a, e = .ok a ∧ k a = .refused r := by
  cases e <;> simp [attempt]

/-! Descriptor registers and one-byte registers. -/

/-- A descriptor register that has been written reads as its value. -/
theorem readDesc_of_some {s : State} {d : Desc} {v : Nat} (h : s.desc d = some v) :
    s.readDesc d = v := by simp only [State.readDesc, h]

/-- A descriptor register reads as a number of its width, written or not. -/
theorem readDesc_lt {s : State} {d : Desc} (h : ∀ v ∈ s.desc d, v < 2 ^ d.width s.cfg) :
    s.readDesc d < 2 ^ d.width s.cfg := by
  unfold State.readDesc
  cases hd : s.desc d with
  | some v => exact h v hd
  | none => exact Nat.mod_lt _ (Nat.two_pow_pos _)

theorem ofNumber_number (d : Desc) : Desc.ofNumber d.number = some d := by cases d <;> rfl

theorem readReg_eq_ok {α : Type} {r : Option α} {v : α} : readReg r = .ok v ↔ r = some v := by
  cases r <;> simp [readReg]

theorem readReg_eq_error {α : Type} {r : Option α} {f : Fault} :
    readReg r = .error f ↔ r = none ∧ f = .unwrittenRead := by
  cases r <;> simp [readReg, eq_comm (a := f)]

/-! Device memory. -/

theorem addrsExist_iff {s : State} {a n : Nat} :
    s.addrsExist a n = true ↔ a + n ≤ 2 ^ s.cfg.addrW := by simp [State.addrsExist]

theorem memRead_eq_ok {s : State} {a n : Nat} {bs : List Byte} :
    s.memRead a n = .ok bs ↔ a + n ≤ 2 ^ s.cfg.addrW ∧ bs = Memory.bytes s.mem a n := by
  unfold State.memRead
  rw [← addrsExist_iff]
  cases s.addrsExist a n <;> simp [eq_comm (a := bs)]

theorem memRead_eq_error {s : State} {a n : Nat} {f : Fault} :
    s.memRead a n = .error f ↔ ¬ a + n ≤ 2 ^ s.cfg.addrW ∧ f = .noSuchAddress := by
  unfold State.memRead
  rw [← addrsExist_iff]
  cases s.addrsExist a n <;> simp [eq_comm (a := f)]

theorem memWrite_eq_ok {s : State} {a : Nat} {bs : List Byte} {t : State} :
    s.memWrite a bs = .ok t ↔
      a + bs.length ≤ 2 ^ s.cfg.addrW ∧ t = { s with mem := Memory.writeSeq s.mem a bs } := by
  unfold State.memWrite
  rw [← addrsExist_iff]
  cases s.addrsExist a bs.length <;> simp [eq_comm (a := t)]

theorem memWrite_eq_error {s : State} {a : Nat} {bs : List Byte} {f : Fault} :
    s.memWrite a bs = .error f ↔
      ¬ a + bs.length ≤ 2 ^ s.cfg.addrW ∧ f = .noSuchAddress := by
  unfold State.memWrite
  rw [← addrsExist_iff]
  cases s.addrsExist a bs.length <;> simp [eq_comm (a := f)]

@[simp] theorem drawBytes_length (d n : Nat) : (drawBytes d n).length = n := by simp [drawBytes]

theorem clobber_eq_ok {s : State} {a n : Nat} {t : State} :
    s.clobber a n = .ok t ↔ a + n ≤ 2 ^ s.cfg.addrW ∧ t = s.spoil a n := by
  unfold State.clobber
  rw [← addrsExist_iff]
  cases s.addrsExist a n <;> simp [eq_comm (a := t)]

theorem clobber_eq_error {s : State} {a n : Nat} {f : Fault} :
    s.clobber a n = .error f ↔ ¬ a + n ≤ 2 ^ s.cfg.addrW ∧ f = .noSuchAddress := by
  unfold State.clobber
  rw [← addrsExist_iff]
  cases s.addrsExist a n <;> simp [eq_comm (a := f)]

/-- Free draws leave every address outside their region alone. -/
theorem spoil_read_outside (s : State) (a n : Nat) {a' : Nat} (h : a' < a ∨ a + n ≤ a') :
    Memory.read (s.spoil a n).mem a' = Memory.read s.mem a' := by
  rw [State.spoil_mem]
  exact Memory.read_writeSeq_outside _ _ _ (by rwa [drawBytes_length])

/-- Free draws leave the draw's byte at each address of their region. -/
theorem spoil_byte_inside (s : State) (a n : Nat) {j : Nat} (h : j < n) :
    Memory.byte (s.spoil a n).mem (a + j) = Config.freeByte (s.draws + j) := by
  rw [State.spoil_mem, Memory.byte_writeSeq_inside _ _ _ (by rwa [drawBytes_length])]
  simp [drawBytes]

theorem spoil_wf {s : State} (a n : Nat) (h : Memory.wf s.mem) : Memory.wf (s.spoil a n).mem :=
  Memory.writeSeq_wf _ _ h

/-! The launch premises, as inequalities. -/

theorem disjoint_iff {a la b lb : Nat} :
    disjoint a la b lb = true ↔ la = 0 ∨ lb = 0 ∨ a + la ≤ b ∨ b + lb ≤ a := by
  simp [disjoint, or_assoc]

theorem buffersOk_iff {c : Config} {pt n key iv ct : Nat} :
    buffersOk c pt n key iv ct = true ↔
      pt + n ≤ 2 ^ c.addrW ∧ ct + n + 176 ≤ 2 ^ c.addrW ∧ key + 16 ≤ 2 ^ c.addrW ∧
        iv + 16 ≤ 2 ^ c.addrW ∧ disjoint ct (n + 176) pt n = true ∧
        disjoint ct (n + 176) key 16 = true ∧ disjoint ct (n + 176) iv 16 = true := by
  simp [buffersOk, and_assoc]

/-! The shared parts of the meanings. -/

/-- What SUB, SHR and MIX do when they answer. -/
theorem transformS_eq_next {f : List Byte → List Byte} {p : Nibble} {s t : State} :
    transformS f p s = .next t ↔
      ∃ b, readFile s.regS 0 16 = .ok b ∧ t = { s with regS := holding (f b), ph := p } := by
  unfold transformS
  rw [attempt_eq_next]
  simp only [Host.Outcome.next.injEq, eq_comm (b := t)]

/-- What the end of KXW does when it answers. -/
theorem kxwNext_eq_next {p : Nat} {s t : State} :
    kxwNext p s = .next t ↔
      (p + 4 < 176 ∧ t = { s with kpos := BitVec.ofNat 8 (p + 4) }) ∨
        (¬ p + 4 < 176 ∧ ∃ n, s.nblk = some n ∧
          t = { s with
            rkv := true, kpos := 176#8, blk := 0, ph := if 0 < n then Op.cbx else Op.fin }) := by
  unfold kxwNext
  split
  · rename_i h
    simp only [Host.Outcome.next.injEq, eq_comm (b := t), h, true_and, not_true, false_and, or_false]
  · rename_i h
    rw [attempt_eq_next]
    simp only [readReg_eq_ok, Host.Outcome.next.injEq, eq_comm (b := t), h, not_false_eq_true,
      true_and, false_and, false_or]

/-- What CHK does with valid lengths when it answers. -/
theorem chkPass_eq_next {n : Nat} {s t : State} :
    chkPass n s = .next t ↔
      buffersOk s.cfg (s.readDesc .ptAddr) n (s.readDesc .keyAddr) (s.readDesc .ivAddr)
          (s.readDesc .ctAddr) = true ∧
        t = { s with nblk := some (n / 16), ph := Op.kld } := by
  unfold chkPass
  split
  · simp [*, eq_comm (a := t)]
  · simp [*]

/-- What the chain input of block i is when it can be read. -/
theorem readChain_eq_ok {i : Nat} {s : State} {c : List Byte} :
    readChain i s = .ok c ↔
      (i = 0 ∧ s.memRead (s.readDesc .ivAddr) 16 = .ok c) ∨
        (i ≠ 0 ∧ s.memRead (blockAddr (s.readDesc .ctAddr) (i - 1)) 16 = .ok c) := by
  unfold readChain
  split <;> simp [*]

/-- What FIN's scratch licence does when it answers. -/
theorem finScratch_eq_ok {s t : State} :
    finScratch s = .ok t ↔
      (s.errPastChk = true ∧
        s.readDesc .ctAddr + s.readDesc .ptLen + 176 ≤ 2 ^ s.cfg.addrW ∧
        t = s.spoil (s.readDesc .ctAddr + s.readDesc .ptLen) 176) ∨
        (s.errPastChk = false ∧ t = s) := by
  unfold finScratch
  split
  · simp [*, clobber_eq_ok]
  · simp [*, eq_comm (a := t)]

/-- What the ENV_FAIL event does when it answers (R203). -/
theorem envFailEvent_eq_next {s t : State} :
    envFailEvent s = .next t ↔
      s.readDesc .ctAddr + (s.readDesc .ptLen + 176) ≤ 2 ^ s.cfg.addrW ∧
        t = (s.spoil (s.readDesc .ctAddr) (s.readDesc .ptLen + 176)).raise
          Err.executionEnvironmentFailure := by
  simp only [envFailEvent, attempt_eq_next, clobber_eq_ok]
  constructor
  · rintro ⟨s', ⟨h, rfl⟩, ht⟩
    exact ⟨h, by cases ht; rfl⟩
  · rintro ⟨h, rfl⟩
    exact ⟨_, ⟨h, rfl⟩, rfl⟩

end Sys2Proof.Machine
end

