-- ==== Sys2Proof/Laws/PerInstr.lean ====
section
/-! SUPPORT. Families of statements made once per instruction. CodeShape: where a well-formed
instruction's word lies among the 256 words (R82 to R84, R88). -/

namespace Sys2Proof.Laws.CodeShape

/-- The word of a well-formed instruction has an op field of 0x0 .. 0xA and a low nibble of at most
10; the low nibble is nonzero only for ENCRYPT and for ARK, whose k it is; and op = 0x0, a reserved
format-U field, is ENCRYPT's alone. -/
def Statement (i : Instr) : Prop :=
  i.wf = true →
    (opField (encode i)).toNat ≤ 0xA ∧ (kField (encode i)).toNat ≤ 10 ∧
    (kField (encode i) ≠ 0#4 → i = .encrypt ∨ i = .ark (kField (encode i))) ∧
    (opField (encode i) = Op.idle → i = .encrypt)

theorem encrypt : Statement .encrypt := by unfold Statement; decide

theorem chk : Statement .chk := by unfold Statement; decide

theorem kld : Statement .kld := by unfold Statement; decide

theorem kxw : Statement .kxw := by unfold Statement; decide

theorem cbx : Statement .cbx := by unfold Statement; decide

theorem ark (k : Nibble) : Statement (.ark k) := by
  revert k
  unfold Statement
  decide

theorem sub : Statement .sub := by unfold Statement; decide

theorem shr : Statement .shr := by unfold Statement; decide

theorem mix : Statement .mix := by unfold Statement; decide

theorem bst : Statement .bst := by unfold Statement; decide

theorem fin : Statement .fin := by unfold Statement; decide

end Sys2Proof.Laws.CodeShape
end

