-- ==== Sys2Proof/Laws/Units.lean ====
section
/-! SUPPORT. The lengths of what the function units give, and the small laws of the byte sequences. -/

namespace Sys2Proof.Machine

@[simp] theorem xorBytes_length (a b : List Byte) :
    (xorBytes a b).length = min a.length b.length := by simp [xorBytes]

theorem xorBytes_getElem {a b : List Byte} {j : Nat} (ha : j < a.length) (hb : j < b.length) :
    (xorBytes a b)[j]'(by simp; omega) = a[j] ^^^ b[j] := by simp [xorBytes]

theorem byteAt_eq_getElem {bs : List Byte} {j : Nat} (h : j < bs.length) : byteAt bs j = bs[j] := by
  simp [byteAt, List.getD, List.getElem?_eq_getElem h]

@[simp] theorem subBytes_length (s : List Byte) : (subBytes s).length = s.length := by
  simp [subBytes]

@[simp] theorem shiftRows_length (s : List Byte) : (shiftRows s).length = 16 := by
  simp [shiftRows]

@[simp] theorem mixColumns_length (s : List Byte) : (mixColumns s).length = 16 := by
  simp [mixColumns]

@[simp] theorem rotword_length (w : List Byte) : (rotword w).length = 4 := rfl

@[simp] theorem subword_length (w : List Byte) : (subword w).length = w.length := by
  simp [subword]

@[simp] theorem boundaryWord_length (w : List Byte) (r : Byte) :
    (boundaryWord w r).length = 4 := by simp [boundaryWord]

theorem addRoundKey_length {s k : List Byte} (hs : s.length = 16) (hk : k.length = 16) :
    (addRoundKey s k).length = 16 := by simp [addRoundKey, hs, hk]

theorem roundKey_length {rk : List Byte} {k : Nat} (h : rk.length = 176) (hk : k ≤ 10) :
    (roundKey rk k).length = 16 := by simp [roundKey, h]; omega

/-- ShiftRows as the permutation of R142: new index j takes old index 5j mod 16. -/
theorem shiftRows_eq_perm (s : List Byte) :
    shiftRows s = (List.range 16).map fun j => byteAt s (5 * j % 16) := rfl

/-- xor with the same sequence twice gives the sequence back. -/
theorem xorBytes_twice {a b : List Byte} (h : a.length = b.length) :
    xorBytes (xorBytes a b) b = a := by
  apply List.ext_getElem
  · simp [h]
  · intro j h1 h2
    simp [xorBytes]

end Sys2Proof.Machine
end

