-- ==== Sys2Proof/Tests/Slice0.lean ====
section
/-! SUPPORT. The model's own tests: the WellFormed smoke, words written out from the encodings of
30_encoding.md, at most two single-step tests per instruction with results from 95_test_vectors.md
(computed there, not here), and for every statement with hypotheses a state that meets them. -/

namespace Sys2Proof.Machine

/-! Helpers. -/

/-- The n bytes of a hexadecimal string written as a number, byte 0 first (R11). -/
def hexBytes (n x : Nat) : List Byte :=
  (List.range n).map fun i => BitVec.ofNat 8 (x / 256 ^ (n - 1 - i))

/-- A list of cells for the bytes at increasing addresses. -/
def cellsAt (a : Nat) : List Byte → Memory
  | [] => []
  | b :: bs => (a, b) :: cellsAt (a + 1) bs

/-- What a field is after a step that answers. -/
def after {α : Type} (f : State → α) : Result → Option α
  | .next t => some (f t)
  | _ => none

def faultOf : Result → Option Fault
  | .fault f => some f
  | _ => none

def refusalOf : Result → Option Refusal
  | .refused r => some r
  | _ => none

def answers (r : Result) : Bool := (after (fun _ => ()) r).isSome

/-- CTL as (PH, BLK, RND, KPOS). -/
def ctl (s : State) : Nat × Nat × Nat × Nat := (s.ph.toNat, s.blk, s.rnd.toNat, s.kpos.toNat)

/-- Idle after the host prepared the one-block call of P1. -/
def tIdle : State := { State.reset with
  ptAddr := some 0x1000, ptLen := some 16, keyAddr := some 0x3000, keyLen := some 16,
  ivAddr := some 0x3010, ivLen := some 16, ctAddr := some 0x2000,
  mem := cellsAt 0x1000 (hexBytes 16 0x6bc1bee22e409f96e93d7e117393172a) ++
    (cellsAt 0x3000 (hexBytes 16 0x2b7e151628aed2a6abf7158809cf4f3c) ++
      cellsAt 0x3010 (hexBytes 16 0x000102030405060708090a0b0c0d0e0f)) }

/-- The same call just started. -/
def tChk : State := { tIdle with busy := true, ph := Op.chk }

/-- The call past CHK. -/
def tKld : State := { tChk with ph := Op.kld, nblk := some 1 }

/-- The call at the first KXW. -/
def tKxw : State := { tKld with
  ph := Op.kxw, rcon := some 0x01#8,
  rk := holding (hexBytes 16 0x2b7e151628aed2a6abf7158809cf4f3c) ++ discarded 160 }

/-- A complete schedule whose round keys are all round key 0 of V10 (enough for one ARK). -/
def tRk : List Byte :=
  (List.replicate 11 (hexBytes 16 0x2b7e151628aed2a6abf7158809cf4f3c)).flatten

/-- The call at CBX of its block. -/
def tCbx : State := { tKld with
  ph := Op.cbx, kpos := 176#8, rcon := some 0x6C#8, rkv := true, rk := holding tRk }

/-- The call at ARK 0 with the state of V18's first row. -/
def tArk : State := { tCbx with
  ph := Op.ark, regS := holding (hexBytes 16 0x3243f6a8885a308d313198a2e0370734) }

/-- A state with the given S and position (for the round transform). -/
def tRound (ph rnd : Nibble) (x : Nat) : State := { tCbx with
  ph := ph, rnd := rnd, regS := holding (hexBytes 16 x) }

/-- The call at BST of its block. -/
def tBst : State := tRound Op.bst 10#4 0x3925841d02dc09fbdc118597196a0b32

/-- The call at FIN after its block. -/
def tFin : State := { tBst with ph := Op.fin, blk := 1 }

/-! WellFormed and decoding. -/

/-- The one check: k of ARK is 0..10 (R83). -/
theorem test_wf_ark_range : (Instr.ark 10#4).wf = true ∧ (Instr.ark 11#4).wf = false := by decide

/-- The words of R83 and R84, written out bit by bit. -/
theorem test_decode_words :
    decodeCommand 0b00000001#8 = .ok (some .encrypt) ∧ decodeCommand 0b00000000#8 = .ok none ∧
    decodeMicro 0b00010000#8 = .ok .chk ∧ decodeMicro 0b00100000#8 = .ok .kld ∧
    decodeMicro 0b00110000#8 = .ok .kxw ∧ decodeMicro 0b01000000#8 = .ok .cbx ∧
    decodeMicro 0b01010000#8 = .ok (.ark 0#4) ∧ decodeMicro 0b01011010#8 = .ok (.ark 10#4) ∧
    decodeMicro 0b01100000#8 = .ok .sub ∧ decodeMicro 0b01110000#8 = .ok .shr ∧
    decodeMicro 0b10000000#8 = .ok .mix ∧ decodeMicro 0b10010000#8 = .ok .bst ∧
    decodeMicro 0b10100000#8 = .ok .fin := by decide

/-- V42: the examples of reserved words, and exactly 20 valid format-U words. -/
theorem test_decode_reserved :
    ([0x00, 0x11, 0x5B, 0x5F, 0x61, 0x8F, 0xA1, 0xB0, 0xF0, 0xFF].all fun w =>
      decodeMicro (BitVec.ofNat 8 w) == .error .reservedWord) = true ∧
    ((List.range 256).filter fun w =>
      decodeMicro (BitVec.ofNat 8 w) != .error .reservedWord).length = 20 := by decide +kernel

/-- Every table word decodes through the number form, and runs as the first step after reset. -/
theorem test_table_words_run :
    ([0x01, 0x10, 0x20, 0x30, 0x40, 0x50, 0x5A, 0x60, 0x70, 0x80, 0x90, 0xA0].all fun w =>
      (decodeTableWord 8 w).isSome && answers (step (State.reset.withFetchWord 8 w))) = true := by
  decide +kernel

/-! Function units. -/

/-- V1: a sample of the S-box. -/
theorem test_sbox_v1 :
    (sbox 0x00#8, sbox 0x01#8, sbox 0x10#8, sbox 0x52#8, sbox 0x53#8, sbox 0x8D#8, sbox 0xFF#8) =
      (0x63#8, 0x7C#8, 0xCA#8, 0x00#8, 0xED#8, 0x5D#8, 0x16#8) := by decide

/-- V2: products, with and without a carry. -/
theorem test_gfmul_v2 :
    (gfmul 0x57#8 0x83#8, gfmul 0x57#8 0x13#8, gfmul 0x80#8 0x02#8, gfmul 0xFF#8 0x03#8,
      gfmul 0x53#8 0xCA#8, gfmul 0xFF#8 0xFF#8) =
      (0xC1#8, 0xFE#8, 0x1B#8, 0x1A#8, 0x01#8, 0x13#8) := by decide

/-! One step each. -/

/-- R171's worked example: STATUS 0x02 becomes 0x01, and the position CHK. -/
theorem test_encrypt :
    after (fun t => (t.statusWord, ctl t)) (exec .encrypt { tIdle with done := true }) =
      some (0x01#8, 1, 0, 0, 16) := by decide

/-- V45: ENCRYPT right after reset is refused. -/
theorem test_encrypt_unwritten :
    refusalOf (exec .encrypt State.reset) = some .descriptorUnwritten := by decide

/-- V40 rows 3 and 17: two blocks pass; two errors at once report InvalidLength. -/
theorem test_chk_lengths :
    after (fun t => (t.statusWord, t.nblk, t.ph)) (exec .chk { tChk with ptLen := some 32 }) =
      some (0x01#8, some 2, Op.kld) ∧
    after (fun t => (t.statusWord, t.nblk, t.ph))
      (exec .chk { tChk with ptLen := some 17, keyLen := some 15 }) =
      some (0x11#8, none, Op.fin) := by decide

/-- V45: in-place encryption, and a key in the scratch region, are refused; a region that ends
exactly at the top of the address space is not. -/
theorem test_chk_premises :
    refusalOf (exec .chk { tChk with ctAddr := some 0x1000 }) = some .launchPremise ∧
    refusalOf (exec .chk { tChk with keyAddr := some (0x2000 + 16 + 100) }) =
      some .launchPremise ∧
    answers (exec .chk { tChk with ctAddr := some (65536 - 192) }) = true ∧
    refusalOf (exec .chk { tChk with ctAddr := some (65536 - 191) }) = some .launchPremise := by
  decide

/-- R122's worked example. -/
theorem test_kld :
    after (fun t => (t.rk.take 16, t.rcon, ctl t)) (exec .kld tKld) =
      some (holding (hexBytes 16 0x2b7e151628aed2a6abf7158809cf4f3c), some 0x01#8, 3, 0, 0, 16) := by
  decide

/-- R123's worked example: the first KXW. -/
theorem test_kxw_boundary :
    after (fun t => ((t.rk.drop 16).take 4, t.rcon, t.rkv)) (exec .kxw tKxw) =
      some (holding (hexBytes 4 0xa0fafe17), some 0x02#8, false) ∧
    after ctl (exec .kxw tKxw) = some (3, 0, 0, 20) := by decide

/-- V10's fortieth KXW: no boundary, the store is full, RKV is set and CBX is next. -/
theorem test_kxw_last :
    after (fun t => (t.rk.drop 172, t.rkv, ctl t)) (exec .kxw { tKxw with
      kpos := 172#8, rcon := some 0x6C#8,
      rk := discarded 156 ++ holding (hexBytes 4 0x575c006e) ++ discarded 8 ++
        holding (hexBytes 4 0xe13f0cc8) ++ discarded 4 }) =
      some (holding (hexBytes 4 0xb6630ca6), true, 4, 0, 0, 176) := by decide

/-- V30's first row: block 0 is chained with the IV. -/
theorem test_cbx_iv :
    after (fun t => (t.regS, ctl t)) (exec .cbx tCbx) =
      some (holding (hexBytes 16 0x6bc0bce12a459991e134741a7f9e1925), 5, 0, 0, 176) := by decide

/-- V30's second row: block 1 is chained with ciphertext block 0, read back from memory. -/
theorem test_cbx_chain :
    after (fun t => (t.regS, ctl t)) (exec .cbx { tCbx with
      blk := 1, rnd := 10#4,
      mem := cellsAt 0x1010 (hexBytes 16 0xae2d8a571e03ac9c9eb76fac45af8e51) ++
        cellsAt 0x2000 (hexBytes 16 0x7649abac8119b246cee98e9b12e9197d) }) =
      some (holding (hexBytes 16 0xd86421fb9f1a1eda505ee1375746972c), 5, 1, 0, 176) := by decide

/-- V18's first row. -/
theorem test_ark :
    after (fun t => (t.regS, ctl t)) (exec (.ark 0#4) tArk) =
      some (holding (hexBytes 16 0x193de3bea0f4e22b9ac68d2ae9f84808), 6, 0, 1, 176) := by decide

/-- V18's third row, for the position only: after ARK 10 RND stays 10 and BST is next; and V45: with
RKV = 0 it is ScheduleNotValid. -/
theorem test_ark_last :
    after ctl (exec (.ark 10#4) { tArk with rnd := 10#4 }) = some (9, 0, 10, 176) ∧
    faultOf (exec (.ark 0#4) { tArk with rkv := false }) = some .scheduleNotValid := by decide

/-- V15's first row. -/
theorem test_sub :
    after (fun t => (t.regS, ctl t))
      (exec .sub (tRound Op.sub 1#4 0x000102030405060708090a0b0c0d0e0f)) =
      some (holding (hexBytes 16 0x637c777bf26b6fc53001672bfed7ab76), 7, 0, 1, 176) := by decide

/-- V16's first row: the permutation itself. -/
theorem test_shr :
    after (fun t => (t.regS, ctl t))
      (exec .shr (tRound Op.shr 1#4 0x000102030405060708090a0b0c0d0e0f)) =
      some (holding (hexBytes 16 0x00050a0f04090e03080d02070c01060b), 8, 0, 1, 176) := by decide

/-- V41: in the final round ARK follows SHR. -/
theorem test_shr_final :
    after ctl (exec .shr (tRound Op.shr 10#4 0)) = some (5, 0, 10, 176) := by decide

/-- V17: four textbook columns at once. -/
theorem test_mix :
    after (fun t => (t.regS, ctl t))
      (exec .mix (tRound Op.mix 1#4 0x01010101c6c6c6c6d4d4d4d52d26314c)) =
      some (holding (hexBytes 16 0x01010101c6c6c6c6d5d5d7d64d7ebdf8), 5, 0, 1, 176) := by decide

/-- V17: column 0 alone, with carries (a swapped multiplier shows). -/
theorem test_mix_column :
    after (fun t => t.regS) (exec .mix (tRound Op.mix 1#4 0xdb135345000000000000000000000000)) =
      some (holding (hexBytes 16 0x8e4da1bc000000000000000000000000)) := by decide

/-- V30's last row: the block is stored and FIN is next. -/
theorem test_bst :
    after (fun t => (Memory.bytes t.mem 0x2000 16, ctl t)) (exec .bst tBst) =
      some (hexBytes 16 0x3925841d02dc09fbdc118597196a0b32, 10, 1, 10, 176) := by decide

/-- V30: with a block left, CBX is next. -/
theorem test_bst_more :
    after ctl (exec .bst { tBst with nblk := some 4 }) = some (4, 1, 10, 176) := by decide

/-- V41's FIN row: STATUS 0x02, idle, nothing held; the byte after the scratch region is untouched. -/
theorem test_fin :
    after (fun t => (t.statusWord, ctl t)) (exec .fin tFin) = some (0x02#8, 0, 0, 0, 16) ∧
    after (fun t => (t.rkv, t.rk == discarded 176, t.nblk)) (exec .fin tFin) =
      some (false, true, none) ∧
    after (fun t => Memory.read t.mem 0x20C0) (exec .fin tFin) = some none := by decide +kernel

/-- P4a: FIN after InvalidLength leaves memory alone; STATUS 0x12. -/
theorem test_fin_rejected :
    after (fun t => (t.statusWord, t.mem == tChk.mem)) (exec .fin { tChk with
      ph := Op.fin, err := 1#4 }) = some (0x12#8, true) := by decide +kernel

/-- V41's last row: ENV_FAIL taken at (MIX, 0, 4, 176) gives STATUS 0x31 and (FIN, 0, 4, 176). -/
theorem test_envFail_taken :
    after (fun t => (t.statusWord, ctl t))
      (step { tRound Op.mix 4#4 0 with envFail := true }) =
      some (0x31#8, 10, 0, 4, 176) := by decide +kernel

/-- V45: forced positions after reset, and the host's refused and accepted register accesses. -/
theorem test_v45 :
    faultOf (step { State.reset with ph := Op.sub, rnd := 1#4 }) = some .unwrittenRead ∧
    faultOf (step { tKxw with kpos := 20#8 }) = some .unwrittenRead ∧
    faultOf (step { State.reset with ph := 0xC#4 }) = some .illegalPhase ∧
    refusalOf (hostWriteReg 0 0x80 tIdle) = some .reservedCommand ∧
    refusalOf (hostWriteReg 3 32 tChk) = some .busyViolation ∧
    refusalOf (hostWriteReg 0 1 tChk) = some .busyViolation ∧
    after (fun t => t.statusWord) (hostWriteReg 1 0xFF tIdle) = some 0x00#8 ∧
    after (fun t => t.rdata) (hostReadReg 0 tIdle) = some (some 0) := by decide

/-- V44: reset in a call clears the registers and STATUS; V44's first row: idle, memory stays. -/
theorem test_reset :
    after (fun t => (t.statusWord, ctl t, t.ptAddr, t.regS == discarded 16))
      (serve .reset (tRound Op.mix 1#4 0)) = some (0x00#8, (0, 0, 0, 16), none, true) ∧
    after (fun t => t.mem == tIdle.mem) (serve .reset { tIdle with done := true }) = some true := by
  decide +kernel

/-! Witnesses: for every statement with hypotheses, a state and operands that meet them all, and for
a statement of several clauses one for each clause, at a boundary of its range. -/

/-- The call at ARK 10, its last key addition. -/
def tArkLast : State := { tArk with rnd := 10#4 }

/-- tKld with no byte in memory written, and the engine's turn given by a move. -/
def tKldEmpty : State := { tKld with mem := [], inputs := [.run] }

/-- tChk with the ciphertext region over the plaintext. -/
def tChkOverlap : State := { tChk with ctAddr := some 0x1000 }

/-- A two-block call at the BST of its first block, the second plaintext block in memory. -/
def tBstFirst : State := { tBst with
  ptLen := some 32, nblk := some 2,
  mem := cellsAt 0x1010 (hexBytes 16 0xae2d8a571e03ac9c9eb76fac45af8e51) }

/-- The call of tChk with every buffer elsewhere, in a wider address space. -/
def tChkMoved : State := { tChk with
  cfg := ⟨20, 16⟩, ptAddr := some 0x3, keyAddr := some 0x13, ivAddr := some 0x23,
  ctAddr := some 0x33,
  mem := cellsAt 0x3 (hexBytes 48
    0x6bc1bee22e409f96e93d7e117393172a2b7e151628aed2a6abf7158809cf4f3c000102030405060708090a0b0c0d0e0f) }

theorem witness_decode : (Instr.ark 10#4).wf = true ∧ decode 0x5A#8 = .ok (.ark 10#4) := by decide

/-- ReservedEncodingsStop: a boundary word of each of its four cases. -/
theorem witness_reserved_words :
    (0x00#8).extractLsb' 4 4 = 0x0#4 ∧ 0xB ≤ ((0xB0#8).extractLsb' 4 4).toNat ∧
    ((0x5B#8).extractLsb' 4 4 = 0x5#4 ∧ 11 ≤ ((0x5B#8).extractLsb' 0 4).toNat) ∧
    ((0x11#8).extractLsb' 4 4 ≠ 0x5#4 ∧ (0x11#8).extractLsb' 0 4 ≠ 0x0#4) := by decide

theorem witness_step_runs :
    tChk.ph ≠ Op.idle ∧ (tChk.envFail && tChk.envFailWindow) = false ∧
    decodeMicro (tChk.ph ++ (if tChk.ph = 0x5#4 then tChk.rnd else 0#4)) = .ok .chk ∧
    tChk.inputs = [] := by decide

theorem tChk_inv : Inv tChk :=
  ⟨by constructor <;> decide +kernel, by constructor <;> decide +kernel⟩

theorem tChkMoved_inv : Inv tChkMoved :=
  ⟨by constructor <;> decide +kernel, by constructor <;> decide +kernel⟩

theorem tChkOverlap_inv : Inv tChkOverlap :=
  ⟨by constructor <;> decide +kernel, by constructor <;> decide +kernel⟩

theorem tKldEmpty_inv : Inv tKldEmpty :=
  ⟨by constructor <;> decide +kernel, by constructor <;> decide +kernel⟩

theorem tArkLast_inv : Inv tArkLast :=
  ⟨by constructor <;> decide +kernel, by constructor <;> decide +kernel⟩

theorem tBst_inv : Inv tBst :=
  ⟨by constructor <;> decide +kernel, by constructor <;> decide +kernel⟩

/-- KldLoadsKey and KeyScheduleRun. -/
theorem witness_kld :
    tKld.rk.length = 176 ∧ tKld.ph = Op.kld ∧ tKld.inputs = [] ∧ tKld.envFail = false ∧
    tKld.keyAddr = some 0x3000 ∧ 0x3000 + 16 ≤ 2 ^ tKld.cfg.addrW ∧
    Memory.bytes tKld.mem 0x3000 16 = hexBytes 16 0x2b7e151628aed2a6abf7158809cf4f3c ∧
    tKld.nblk = some 1 := by decide +kernel

/-- KxwDerivesWord at p = 16 (a boundary) and p = 172 (the last word). -/
theorem witness_kxw :
    (tKxw.rk.length = 176 ∧ tKxw.kpos.toNat = 16 ∧
      tKxw.rk.getD 12 none = some 0x09#8 ∧ tKxw.rk.getD 13 none = some 0xcf#8 ∧
      tKxw.rk.getD 14 none = some 0x4f#8 ∧ tKxw.rk.getD 15 none = some 0x3c#8 ∧
      tKxw.rk.getD 0 none = some 0x2b#8 ∧ tKxw.rk.getD 1 none = some 0x7e#8 ∧
      tKxw.rk.getD 2 none = some 0x15#8 ∧ tKxw.rk.getD 3 none = some 0x16#8 ∧
      tKxw.rcon = some 0x01#8) ∧
    (let s := { tCbx with kpos := 172#8 }
     s.rk.length = 176 ∧ s.kpos.toNat = 172 ∧ s.nblk = some 1 ∧
      s.rk.getD 168 none = some 0xab#8 ∧ s.rk.getD 169 none = some 0xf7#8 ∧
      s.rk.getD 170 none = some 0x15#8 ∧ s.rk.getD 171 none = some 0x88#8 ∧
      s.rk.getD 156 none = some 0x09#8 ∧ s.rk.getD 157 none = some 0xcf#8 ∧
      s.rk.getD 158 none = some 0x4f#8 ∧ s.rk.getD 159 none = some 0x3c#8) := by decide +kernel

/-- ScheduleReadOnlyOnceDerived, InvariantKept, EngineWritesOnlyCiphertext, ShapeKept and
MemoryCanonicalKept: a state that meets the invariant, with RKV 1 before and after its step. -/
theorem witness_invariant_step :
    Inv tArkLast ∧ tArkLast.rkv = true ∧ tArkLast.inputs = [] ∧
      ∃ t, step tArkLast = .next t ∧ t.rkv = true :=
  ⟨tArkLast_inv, rfl, rfl, _, rfl, rfl⟩

/-- The same for a host move, and for a step that writes memory; the address below the region and
the one right after it are outside for EngineWritesOnlyCiphertext. -/
theorem witness_invariant_moves :
    (Inv tBst ∧ ∃ t, step tBst = .next t) ∧
    (∃ t, step { tChk with inputs := [.reset] } = .next t) ∧
    (∀ ct n, tBst.ctAddr = some ct → tBst.ptLen = some n →
      (0x1FFF < ct ∨ ct + n + 176 ≤ 0x1FFF) ∧ (0x20C0 < ct ∨ ct + n + 176 ≤ 0x20C0)) := by
  refine ⟨⟨tBst_inv, _, rfl⟩, ⟨_, rfl⟩, ?_⟩
  intro ct n hc hn
  cases hc
  cases hn
  omega

/-- SubSubstitutesBytes, ShrRotatesRows, MixCombinesColumns, ArkAddsRoundKey (k = 0 and k = 10, RKV 1
and 0) and EncblkRun. -/
theorem witness_round_transform :
    (hexBytes 16 0x3243f6a8885a308d313198a2e0370734).length = 16 ∧
    tArk.regS = (hexBytes 16 0x3243f6a8885a308d313198a2e0370734).map some ∧
    tArk.rkv = true ∧ tArk.ph = Op.ark ∧ tArk.rnd = 0#4 ∧ tArk.inputs = [] ∧
    tArk.envFail = false ∧ tRk.length = 176 ∧ tArk.rk = tRk.map some ∧
    (∀ j < 16, tArk.rk.getD (16 * (0#4).toNat + j) none =
      (hexBytes 16 0x2b7e151628aed2a6abf7158809cf4f3c)[j]?) ∧
    (∀ j < 16, tArk.rk.getD (16 * (10#4).toNat + j) none =
      (hexBytes 16 0x2b7e151628aed2a6abf7158809cf4f3c)[j]?) ∧
    tChk.rkv = false := by decide +kernel

/-- The frames and NextPositionTable: every instruction answers somewhere, on each row's condition. -/
theorem witness_answers :
    answers (exec .encrypt tIdle) = true ∧ answers (exec .chk tChk) = true ∧
    answers (exec .chk { tChk with ptLen := some 17 }) = true ∧ answers (exec .kld tKld) = true ∧
    answers (exec .kxw tKxw) = true ∧ answers (exec .kxw { tCbx with kpos := 172#8 }) = true ∧
    answers (exec .cbx tCbx) = true ∧ answers (exec (.ark 0#4) tArk) = true ∧
    answers (exec (.ark 10#4) tArkLast) = true ∧ answers (exec .sub tArk) = true ∧
    answers (exec .shr tArk) = true ∧ answers (exec .mix tArk) = true ∧
    answers (exec .bst tBst) = true ∧ answers (exec .fin tFin) = true ∧
    tChk.err = 0#4 ∧ tBst.nblk = some 1 := by decide +kernel

theorem witness_block_cipher :
    tRk.length = 176 ∧ (hexBytes 16 7).length = 16 ∧
      encblock (hexBytes 16 7) tRk = encblock (hexBytes 16 7) tRk := ⟨by decide +kernel, rfl, rfl⟩

/-- UnwrittenReadStops: the last byte of S, NBLK, the last byte of RK{10}, the last word read before
KPOS 16, RCON at a boundary, NBLK at 172. -/
theorem witness_unwritten :
    tCbx.regS.getD 15 none = none ∧ tCbx.rkv = true ∧ tChk.nblk = none ∧
    ({ tCbx with rk := discarded 176 } : State).rk.getD (16 * (10#4).toNat + 15) none = none ∧
    tKld.kpos.toNat = 16 ∧ tKld.rk.getD (16 - 4 + 3) none = none ∧ tKld.rcon = none ∧
    ({ tChk with kpos := 172#8 } : State).kpos.toNat = 172 := by decide +kernel

/-- EngineFaultsUnreachable: the one refusal it leaves does occur under the invariant; a turn given by
a move, with no byte of memory written, answers. -/
theorem witness_engine_stops :
    (Inv tKldEmpty ∧ EngineTurn tKldEmpty ∧ answers (step tKldEmpty) = true) ∧
    (Inv tChkOverlap ∧ EngineTurn tChkOverlap ∧ step tChkOverlap = .refused .launchPremise) :=
  ⟨⟨tKldEmpty_inv, .inr rfl, rfl⟩, tChkOverlap_inv, .inl rfl, rfl⟩

/-- EncryptStartsCall: idle and written, busy, and idle with one register unwritten. -/
theorem witness_encrypt :
    (tIdle.busy = false ∧ ∀ d ∈ Desc.all, (tIdle.desc d).isSome = true) ∧ tChk.busy = true ∧
    (({ tIdle with ctAddr := none } : State).busy = false ∧
      ({ tIdle with ctAddr := none } : State).desc .ctAddr = none) := by decide +kernel

theorem separate_of_disjoint {a la b lb : Nat} (h : disjoint a la b lb = true) :
    Separate a la b lb := by
  simp only [disjoint, Bool.or_eq_true, beq_iff_eq, decide_eq_true_eq] at h
  intro x hx
  omega

theorem launchPremises_of_buffersOk {c : Config} {pt n key iv ct : Nat}
    (h : buffersOk c pt n key iv ct = true) : LaunchPremises c pt n key iv ct := by
  simp only [buffersOk, Bool.and_eq_true, decide_eq_true_eq] at h
  obtain ⟨⟨⟨⟨⟨⟨h1, h2⟩, h3⟩, h4⟩, h5⟩, h6⟩, h7⟩ := h
  exact ⟨⟨h1, h2, h3, h4⟩, separate_of_disjoint h5, separate_of_disjoint h6,
    separate_of_disjoint h7⟩

/-- ChkValidates: the premises hold at tChk, also with the region ending at the top of the address
space, and fail when the ciphertext region starts at the plaintext. -/
theorem witness_chk :
    LaunchPremises tChk.cfg 0x1000 16 0x3000 0x3010 0x2000 ∧
    LaunchPremises tChk.cfg 0x1000 16 0x3000 0x3010 (65536 - 192) ∧
    ¬ LaunchPremises tChk.cfg 0x1000 16 0x3000 0x3010 0x1000 := by
  refine ⟨launchPremises_of_buffersOk (by decide), launchPremises_of_buffersOk (by decide), ?_⟩
  rintro ⟨-, h, -⟩
  exact h 0x1000 (by omega) (by omega)

/-- CbxChainsBlock, for block 0 and for block 1. -/
theorem witness_cbx :
    (tCbx.rkv = true ∧ tCbx.ptAddr = some 0x1000 ∧ tCbx.blk = 0 ∧ tCbx.ivAddr = some 0x3010 ∧
      Memory.bytes tCbx.mem 0x1000 16 = hexBytes 16 0x6bc1bee22e409f96e93d7e117393172a ∧
      Memory.bytes tCbx.mem 0x3010 16 = hexBytes 16 0x000102030405060708090a0b0c0d0e0f) ∧
    (let s : State := { tCbx with
      blk := 1, mem := cellsAt 0x1010 (hexBytes 16 1) ++ cellsAt 0x2000 (hexBytes 16 2) }
     s.ctAddr = some 0x2000 ∧ Memory.bytes s.mem (0x1000 + 16 * s.blk) 16 = hexBytes 16 1 ∧
      Memory.bytes s.mem (0x2000 + 16 * (s.blk - 1)) 16 = hexBytes 16 2) := by
  decide +kernel

theorem witness_bst :
    tBst.ctAddr = some 0x2000 ∧ tBst.nblk = some 1 ∧
    tBst.regS = (hexBytes 16 0x3925841d02dc09fbdc118597196a0b32).map some ∧
    0x2000 + 16 * tBst.blk + 16 ≤ 2 ^ tBst.cfg.addrW := by decide +kernel

/-- ChainReadsStoredBlock: a BST and then a CBX that both answer. -/
theorem witness_chain :
    ∃ t u, exec .bst tBstFirst = .next t ∧ exec .cbx t = .next u ∧
      Memory.bytes t.mem (0x1000 + 16 * t.blk) 16 =
        hexBytes 16 0xae2d8a571e03ac9c9eb76fac45af8e51 := by
  refine ⟨_, _, rfl, rfl, ?_⟩
  decide +kernel

/-- FinEndsCall, for ERR 0, 3 and 1. -/
theorem witness_fin :
    tFin.err = 0#4 ∧ tFin.ctAddr = some 0x2000 ∧ tFin.ptLen = some 16 ∧
    0x2000 + 16 + 176 ≤ 2 ^ tFin.cfg.addrW ∧ ({ tFin with err := 3#4 } : State).err = 3#4 ∧
    ({ tFin with err := 1#4 } : State).err ≠ 0#4 := by decide +kernel

/-- CallEndState and CallDeterminism: the same one-block call at two sets of addresses. -/
theorem witness_call :
    (Inv tChk ∧ CallReady tChk 0x1000 16 0x3000 0x3010 0x2000
      (hexBytes 16 0x2b7e151628aed2a6abf7158809cf4f3c)
      (hexBytes 16 0x000102030405060708090a0b0c0d0e0f)
      [hexBytes 16 0x6bc1bee22e409f96e93d7e117393172a]) ∧
    (Inv tChkMoved ∧ CallReady tChkMoved 0x3 16 0x13 0x23 0x33
      (hexBytes 16 0x2b7e151628aed2a6abf7158809cf4f3c)
      (hexBytes 16 0x000102030405060708090a0b0c0d0e0f)
      [hexBytes 16 0x6bc1bee22e409f96e93d7e117393172a]) := by
  refine ⟨⟨tChk_inv, ?_⟩, tChkMoved_inv, ?_⟩ <;>
    exact ⟨rfl, rfl, rfl, rfl, rfl, rfl, rfl, rfl, rfl, rfl, rfl,
      launchPremises_of_buffersOk (by decide), by decide +kernel, by decide +kernel, rfl,
      by decide +kernel⟩

/-- RejectedCallEnds: a bad length, and a bad key length. ZeroLengthCallEnds: length 0. -/
theorem witness_short_calls :
    (Inv { tChk with ptLen := some 17 } ∧ 17 % 16 ≠ 0) ∧ Inv { tChk with keyLen := some 32 } ∧
    Inv { tChk with ptLen := some 0 } ∧
    LaunchPremises tChk.cfg 0x1000 0 0x3000 0x3010 0x2000 := by
  refine ⟨⟨⟨?_, ?_⟩, by decide⟩, ⟨?_, ?_⟩, ⟨?_, ?_⟩, launchPremises_of_buffersOk (by decide)⟩ <;>
    constructor <;> decide +kernel

/-- ChainingPropagation: two plaintexts of two blocks that differ in block 0 only. -/
theorem witness_propagation :
    let ps := [hexBytes 16 1, hexBytes 16 2]
    let qs := [hexBytes 16 3, hexBytes 16 2]
    (∀ p ∈ ps, p.length = 16) ∧ (∀ q ∈ qs, q.length = 16) ∧ ps.length = qs.length ∧
      ps[0]? ≠ qs[0]? ∧ ps[1]? = qs[1]? ∧ ps.drop 2 = qs.drop 2 := by decide +kernel

/-- EnvFailEventTaken at the first and the last phase of the window; EnvFailIgnoredOutsideWindow at
each of its three phases. -/
theorem witness_envFail :
    (∀ p ∈ [0x2#4, 0x9#4],
      let s : State := { tBst with ph := p, envFail := true }
      s.inputs = [] ∧ s.envFail = true ∧ 0x2 ≤ s.ph.toNat ∧ s.ph.toNat ≤ 0x9 ∧
        s.ctAddr = some 0x2000 ∧ s.ptLen = some 16 ∧ 0x2000 + 16 + 176 ≤ 2 ^ s.cfg.addrW) ∧
    tIdle.ph = Op.idle ∧ tChk.ph = Op.chk ∧ tFin.ph = Op.fin ∧ tFin.inputs = [] := by
  decide +kernel

/-- DescriptorRegisters and RegistersByNumber: registers 2 and 8, their highest values, and the
numbers around them. -/
theorem witness_registers :
    Desc.ofNumber 2 = some .ptAddr ∧ Desc.ofNumber 8 = some .ctAddr ∧ Desc.ofNumber 9 = none ∧
    tIdle.busy = false ∧ 65535 < 2 ^ Desc.ptAddr.width tIdle.cfg ∧
    65535 < 2 ^ Desc.ptLen.width tIdle.cfg ∧ tChk.busy = true := by decide +kernel

/-- KeyMaterialHidden: a register read and a memory read that answer. -/
theorem witness_hidden :
    answers (hostReadReg 1 tChk) = true ∧ answers (hostReadReg 8 tChk) = true ∧
    answers (hostReadMem 0x1000 tChk) = true := by decide +kernel

/-- HostKeepsOffBuffers: the first and the last address of each of the four regions, an address clear
of all, and an idle write at the top of the address space with no register written. -/
theorem witness_buffers :
    (tChk.busy = true ∧ tChk.ptAddr = some 0x1000 ∧ tChk.ptLen = some 16 ∧
      tChk.keyAddr = some 0x3000 ∧ tChk.ivAddr = some 0x3010 ∧ tChk.ctAddr = some 0x2000) ∧
    (0x2000 ≤ 0x20BF ∧ 0x20BF < 0x2000 + 16 + 176) ∧ (0x1000 ≤ 0x100F ∧ 0x100F < 0x1000 + 16) ∧
    (0x3000 ≤ 0x300F ∧ 0x300F < 0x3000 + 16) ∧ (0x3010 ≤ 0x301F ∧ 0x301F < 0x3010 + 16) ∧
    (Separate 0x3020 1 0x2000 192 ∧ Separate 0x3020 1 0x1000 16 ∧ Separate 0x3020 1 0x3000 16 ∧
      Separate 0x3020 1 0x3010 16 ∧ 0x3020 + 1 ≤ 2 ^ tChk.cfg.addrW) ∧
    State.reset.busy = false ∧ 65535 + [0x00#8].length ≤ 2 ^ State.reset.cfg.addrW := by
  refine ⟨by decide, by decide, by decide, by decide, by decide, ⟨?_, ?_, ?_, ?_, by decide⟩, rfl,
    by decide⟩ <;> exact separate_of_disjoint (by decide)

/-- The refusals at those addresses, and the move that is clear of them. -/
theorem test_host_memory :
    ([0x2000, 0x20BF, 0x1000, 0x100F, 0x3000, 0x300F, 0x3010, 0x301F].all fun a =>
      refusalOf (hostWriteMem a [0x00#8] tChk) == some .bufferViolation) = true ∧
    answers (hostWriteMem 0x3020 [0x00#8] tChk) = true ∧
    after (fun t => t.rdata) (hostReadMem 0x3000 tChk) = some (some 0x2b) := by decide +kernel

/-- ScratchBytesAreDraws: FIN, the event, and a reset in the window and at FIN, each answering in a call
past CHK. -/
theorem witness_draws :
    (tFin.ctAddr = some 0x2000 ∧ tFin.ptLen = some 16 ∧ tFin.err = 0#4 ∧
      answers (exec .fin tFin) = true) ∧
    (EngineTurn { tBst with envFail := true } ∧
      answers (step { tBst with envFail := true }) = true) ∧
    (Inv { tArkLast with inputs := [.reset] } ∧
      answers (step { tArkLast with inputs := [.reset] }) = true) ∧
    (Inv { tFin with inputs := [.reset] } ∧
      answers (step { tFin with inputs := [.reset] }) = true) := by
  refine ⟨by decide +kernel, ⟨.inl rfl, by decide +kernel⟩, ⟨⟨?_, ?_⟩, by decide +kernel⟩,
    ⟨?_, ?_⟩, by decide +kernel⟩ <;> constructor <;> decide +kernel

/-- ResetFromAnyState: idle, at CHK, and in a call. ResetDuringCall: a state of the invariant in the
window. -/
theorem witness_reset :
    ({ tChk with inputs := [.reset] } : State).ph = Op.chk ∧ tIdle.busy = false ∧
    Inv { tArkLast with inputs := [.reset] } ∧ 0x2 ≤ tArkLast.ph.toNat ∧
    tArkLast.ph.toNat ≤ 0x9 := by
  refine ⟨rfl, rfl, ⟨?_, ?_⟩, by decide, by decide⟩ <;> constructor <;> decide +kernel

/-- ResetDuringCall with FIN next, and the error of a rejected call for ResetFromAnyState. -/
theorem witness_reset_at_fin :
    tFin.ph = Op.fin ∧ (tFin.err = 0#4 ∨ tFin.err = 3#4) ∧
    (({ tFin with err := 1#4 } : State).err ≠ 0#4 ∧ ({ tFin with err := 1#4 } : State).err ≠ 3#4) ∧
    Inv { tFin with inputs := [.reset] } := by
  refine ⟨rfl, by decide, by decide, ⟨?_, ?_⟩⟩ <;> constructor <;> decide +kernel

/-- EndOfRun and FlagWriters: FIN brings the end, ENCRYPT and reset leave it, and an ended state of
the invariant; each flag that changes there. -/
theorem witness_end :
    (∃ t, step tFin = .next t ∧ tFin.done = false ∧ t.done = true ∧ t.busy = false) ∧
    (∃ t, step { tIdle with done := true, inputs := [.writeReg 0 1] } = .next t ∧
      t.done = false ∧ t.busy = true) ∧
    (∃ t, step { tIdle with done := true, inputs := [.reset] } = .next t ∧ t.done = false) ∧
    Inv { tIdle with done := true } ∧ EngineTurn tFin := by
  refine ⟨⟨_, rfl, rfl, rfl, rfl⟩, ⟨_, rfl, rfl, rfl⟩, ⟨_, rfl, rfl⟩, ⟨?_, ?_⟩, .inl rfl⟩ <;>
    constructor <;> decide +kernel

/-- IvSensitivity: two IVs and one block; CallIssuesFixedOrder: a CHK that raises, and an event. -/
theorem witness_iv_and_order :
    ((hexBytes 16 0).length = 16 ∧ (hexBytes 16 1).length = 16 ∧ hexBytes 16 0 ≠ hexBytes 16 1) ∧
    (∃ t, exec .chk { tChk with ptLen := some 17 } = .next t ∧ t.err ≠ 0#4) ∧
    (∃ t, step { tBst with envFail := true } = .next t) ∧
    callWords 0 = [0x10#8, 0x20#8] ++ List.replicate 40 0x30#8 ++ [0xA0#8] := by
  refine ⟨by decide +kernel, ⟨_, rfl, by decide⟩, ⟨_, rfl⟩, by decide +kernel⟩

/-- The words of ENCBLK written out as 43_block_cipher.md R160 lists them. -/
theorem test_encblk_words :
    encblkWords = [0x50#8, 0x60#8, 0x70#8, 0x80#8, 0x51#8, 0x60#8, 0x70#8, 0x80#8, 0x52#8,
      0x60#8, 0x70#8, 0x80#8, 0x53#8, 0x60#8, 0x70#8, 0x80#8, 0x54#8, 0x60#8, 0x70#8, 0x80#8,
      0x55#8, 0x60#8, 0x70#8, 0x80#8, 0x56#8, 0x60#8, 0x70#8, 0x80#8, 0x57#8, 0x60#8, 0x70#8,
      0x80#8, 0x58#8, 0x60#8, 0x70#8, 0x80#8, 0x59#8, 0x60#8, 0x70#8, 0x5A#8] := by decide

end Sys2Proof.Machine
end

section
/-! SUPPORT for the proofs. The word the sequencer issues, decoded: a word that decodes is the word
of the instruction it decodes to, so what a turn performs is the phase's own (R30, R82, R88). -/

namespace Sys2Proof

/-- The word put together from its own two fields (R82). -/
theorem microWord_fields (w : Byte) : microWord (opField w) (kField w) = w := by
  apply BitVec.eq_of_getLsbD_eq
  intro i hi
  simp only [microWord, opField, kField, BitVec.getLsbD_append, BitVec.getLsbD_extractLsb']
  split
  · simp [*]
  · rw [show 4 + (i - 4) = i by omega]
    simp [show i - 4 < 4 by omega]

@[simp] theorem opField_microWord (op k : Nibble) : opField (microWord op k) = op :=
  BitVec.extractLsb'_append_eq_left

theorem plainMicro_eq_ok {i j : Instr} {k : Nibble} :
    plainMicro i k = .ok j ↔ k = 0#4 ∧ i = j := by
  unfold plainMicro
  split <;> simp [*]

/-- A word whose op is known and whose k is 0 is the word of an operation without operand. -/
theorem microWord_of_plainMicro {w : Byte} {i j : Instr} {n : Nat}
    (hop : (opField w).toNat = n) (h : plainMicro i (kField w) = .ok j) :
    microWord (BitVec.ofNat 4 n) 0#4 = w ∧ i = j := by
  obtain ⟨hk, hij⟩ := plainMicro_eq_ok.1 h
  refine ⟨?_, hij⟩
  rw [← hop, BitVec.ofNat_toNat, BitVec.setWidth_eq, ← hk, microWord_fields]

/-- A format-U word that decodes is the word of the micro-operation it decodes to (R83, R88). -/
theorem encode_of_decodeMicro {w : Byte} {i : Instr} (h : decodeMicro w = .ok i) :
    encode i = w := by
  unfold decodeMicro at h
  dsimp only at h
  split at h
  case h_5 hop =>
    split at h
    · cases h
      have hark : opField w = Op.ark := BitVec.eq_of_toNat_eq hop
      rw [encode, ← hark, microWord_fields]
    · cases h
  case h_11 => cases h
  all_goals
    obtain ⟨hw, rfl⟩ := microWord_of_plainMicro ‹_› h
    exact hw

namespace Machine

/-- The micro-operation a turn performs is the one whose op code is the phase (R30, R85). -/
theorem ph_of_decode_issued {s : State} {i : Instr} (h : decodeMicro s.issued = .ok i) :
    s.ph = opField (encode i) := by
  rw [encode_of_decodeMicro h, State.issued, opField_microWord]

end Machine

end Sys2Proof
end

section
/-! SUPPORT for the proofs. One lemma for each instruction that says once everything it does when it
answers. Later proofs cite these and do not unfold a meaning. -/

namespace Sys2Proof.Machine

/-- What ENCRYPT does when it answers (R171). -/
theorem execEncrypt_eq_next {s t : State} :
    execEncrypt s = .next t ↔ s.busy = false ∧ s.descWritten = true ∧ t = s.startCall := by
  unfold execEncrypt
  cases s.busy <;> cases s.descWritten <;> simp [eq_comm (a := t)]

/-- What CHK does when it answers (R176): one of the two errors, or the pass. -/
theorem execChk_eq_next {s t : State} :
    execChk s = .next t ↔
      (s.readDesc .ptLen % 16 ≠ 0 ∧ t = s.raise Err.invalidLength) ∨
        (s.readDesc .ptLen % 16 = 0 ∧ (s.readDesc .keyLen ≠ 16 ∨ s.readDesc .ivLen ≠ 16) ∧
          t = s.raise Err.invalidKeyOrIVSize) ∨
        (s.readDesc .ptLen % 16 = 0 ∧ s.readDesc .keyLen = 16 ∧ s.readDesc .ivLen = 16 ∧
          buffersOk s.cfg (s.readDesc .ptAddr) (s.readDesc .ptLen) (s.readDesc .keyAddr)
            (s.readDesc .ivAddr) (s.readDesc .ctAddr) = true ∧
          t = { s with nblk := some (s.readDesc .ptLen / 16), ph := Op.kld }) := by
  unfold execChk
  dsimp only
  split
  · simp [*, eq_comm (a := t)]
  · split
    · simp [*, eq_comm (a := t)]
      tauto
    · rw [chkPass_eq_next]
      tauto

/-- What KLD does when it answers (R122). -/
theorem execKld_eq_next {s t : State} :
    execKld s = .next t ↔
      ∃ key, s.memRead (s.readDesc .keyAddr) 16 = .ok key ∧
        t = { s with
          rkv := false, rk := writeFile s.rk 0 key, rcon := some 0x01#8, ph := Op.kxw,
          kpos := 16#8 } := by
  simp only [execKld, attempt_eq_next, Host.Outcome.next.injEq, eq_comm (b := t)]

/-- The positions KXW works at (R29, R123). -/
theorem kposOk_iff {p : Nat} : kposOk p = true ↔ 16 ≤ p ∧ p ≤ 172 ∧ p % 4 = 0 := by
  simp [kposOk, and_assoc]

/-- What KXW does when it answers (R123): the new word, then the next position. -/
theorem execKxw_eq_next {s t : State} :
    execKxw s = .next t ↔
      kposOk s.kpos.toNat = true ∧ ∃ prev wr back,
        readFile s.rk (s.kpos.toNat - 4) 4 = .ok prev ∧
        kxwWord s.kpos.toNat prev s.rcon = .ok wr ∧
        readFile s.rk (s.kpos.toNat - 16) 4 = .ok back ∧
        kxwNext s.kpos.toNat { s with
          rk := writeFile s.rk s.kpos.toNat (xorBytes wr.1 back),
          regW := holding (xorBytes wr.1 back), rcon := wr.2 } = .next t := by
  unfold execKxw
  dsimp only
  split
  · simp only [*, attempt_eq_next, true_and]
    constructor
    · rintro ⟨prev, hprev, wr, hwr, back, hback, hnext⟩
      exact ⟨prev, wr, back, hprev, hwr, hback, hnext⟩
    · rintro ⟨prev, wr, back, hprev, hwr, hback, hnext⟩
      exact ⟨prev, hprev, wr, hwr, back, hback, hnext⟩
  · simp [*]

/-- What CBX does when it answers (R172). -/
theorem execCbx_eq_next {s t : State} :
    execCbx s = .next t ↔
      s.rkv = true ∧ ∃ p c,
        s.memRead (blockAddr (s.readDesc .ptAddr) s.blk) 16 = .ok p ∧ readChain s.blk s = .ok c ∧
        t = { s with regS := holding (xorBytes p c), ph := Op.ark, rnd := 0#4 } := by
  unfold execCbx
  split <;> simp [*, attempt_eq_next, eq_comm (a := t)]

/-- What ARK does when it answers (R144). -/
theorem execArk_eq_next {k : Nibble} {s t : State} :
    execArk k s = .next t ↔
      k.toNat ≤ 10 ∧ s.rkv = true ∧ ∃ b key,
        readFile s.regS 0 16 = .ok b ∧ readFile s.rk (16 * k.toNat) 16 = .ok key ∧
        t = arkNext { s with regS := holding (addRoundKey b key) } := by
  unfold execArk
  split
  · split <;> simp [*, attempt_eq_next, eq_comm (a := t)]
  · simp [*]

/-- What BST does when it answers (R173). -/
theorem execBst_eq_next {s t : State} :
    execBst s = .next t ↔
      ∃ b n, readFile s.regS 0 16 = .ok b ∧ s.nblk = some n ∧
        blockAddr (s.readDesc .ctAddr) s.blk + 16 ≤ 2 ^ s.cfg.addrW ∧
        t = { s with
          mem := Memory.writeSeq s.mem (blockAddr (s.readDesc .ctAddr) s.blk) b,
          blk := s.blk + 1, ph := if s.blk + 1 < n then Op.cbx else Op.fin } := by
  simp only [execBst, attempt_eq_next, readReg_eq_ok, memWrite_eq_ok]
  constructor
  · rintro ⟨b, hb, n, hn, _, ⟨haddr, rfl⟩, ht⟩
    rw [readFile_length hb] at haddr
    exact ⟨b, n, hb, hn, haddr, by cases ht; rfl⟩
  · rintro ⟨b, n, hb, hn, haddr, rfl⟩
    exact ⟨b, hb, n, hn, _, ⟨by rwa [readFile_length hb], rfl⟩, rfl⟩

/-- What FIN does when it answers (R177). -/
theorem execFin_eq_next {s t : State} :
    execFin s = .next t ↔ ∃ u, finScratch s = .ok u ∧ t = u.discard.endFlags.goIdle := by
  simp only [execFin, attempt_eq_next, Host.Outcome.next.injEq, eq_comm (b := t)]

end Sys2Proof.Machine
end

section
/-! SUPPORT for the proofs. What one step can do: it takes the next move off the list, and then it
is one of the rows of `StepCase`. A claim about every step is a `cases` over them. -/

namespace Sys2Proof.Machine

/-! Host moves. -/

/-- A write to CTRL answers only for 0, which does nothing, and 1, which is ENCRYPT (R34). -/
theorem writeCtrl_eq_next {v : Nat} {s t : State} :
    writeCtrl v s = .next t ↔ (v = 0 ∧ t = s) ∨ (v = 1 ∧ execEncrypt s = .next t) := by
  unfold writeCtrl
  split
  · rename_i hv
    unfold decodeCommand
    rw [BitVec.toNat_ofNat, Nat.mod_eq_of_lt hv]
    match v with
    | 0 => simp [eq_comm (a := t)]
    | 1 => simp [exec]
    | v + 2 => simp
  · simp only [reduceCtorEq, false_iff]
    omega

/-- A write to a descriptor register answers while BUSY is 0, for a value that fits (R36, R244). -/
theorem writeDesc_eq_next {d : Desc} {v : Nat} {s t : State} :
    writeDesc d v s = .next t ↔
      s.busy = false ∧ v < 2 ^ d.width s.cfg ∧ t = s.setDesc v d := by
  unfold writeDesc
  cases s.busy
  · simp only [Bool.false_eq_true, if_false, true_and]
    split <;> simp [*, eq_comm (a := t)]
  · simp

/-- A number that names a descriptor register is none of CTRL and STATUS (R33). -/
theorem two_le_of_ofNumber {r : Nat} {d : Desc} (h : Desc.ofNumber r = some d) : 2 ≤ r := by
  by_contra hr
  rw [(Desc.ofNumber_none_iff r).2 (.inl (by omega))] at h
  cases h

/-- A write to the number of a descriptor register is a write to that register (R33). -/
theorem hostWriteReg_of_ofNumber {r : Nat} {d : Desc} (h : Desc.ofNumber r = some d) (v : Nat)
    (s : State) : hostWriteReg r v s = writeDesc d v s := by
  obtain ⟨n, rfl⟩ := Nat.exists_eq_add_of_le' (two_le_of_ofNumber h)
  simp only [hostWriteReg, h]

/-- A read of the number of a descriptor register is a read of that register (R33). -/
theorem hostReadReg_of_ofNumber {r : Nat} {d : Desc} (h : Desc.ofNumber r = some d) (s : State) :
    hostReadReg r s = .next (readDescHost d s) := by
  obtain ⟨n, rfl⟩ := Nat.exists_eq_add_of_le' (two_le_of_ofNumber h)
  simp only [hostReadReg, h]

/-- A write to a register that does not exist is refused (R33). -/
theorem hostWriteReg_of_ge {r : Nat} (h : 9 ≤ r) (v : Nat) (s : State) :
    hostWriteReg r v s = .refused .noSuchRegister := by
  obtain ⟨n, rfl⟩ := Nat.exists_eq_add_of_le' (show 2 ≤ r by omega)
  simp only [hostWriteReg, (Desc.ofNumber_none_iff _).2 (.inr h)]

/-- A read of a register that does not exist is refused (R33). -/
theorem hostReadReg_of_ge {r : Nat} (h : 9 ≤ r) (s : State) :
    hostReadReg r s = .refused .noSuchRegister := by
  obtain ⟨n, rfl⟩ := Nat.exists_eq_add_of_le' (show 2 ≤ r by omega)
  simp only [hostReadReg, (Desc.ofNumber_none_iff _).2 (.inr h)]

/-- The descriptor registers are numbers 2 to 8 (R33). -/
theorem exists_ofNumber {r : Nat} (h2 : 2 ≤ r) (h8 : r ≤ 8) : ∃ d, Desc.ofNumber r = some d := by
  rw [← Option.ne_none_iff_exists', ne_eq, Desc.ofNumber_none_iff]
  omega

/-- What a write to a register by number does when it answers (R33). -/
theorem hostWriteReg_cases {r v : Nat} {s t : State} (h : hostWriteReg r v s = .next t) :
    (r = 0 ∧ v = 1 ∧ execEncrypt s = .next t) ∨ ((r = 0 ∧ v = 0 ∨ r = 1) ∧ t = s) ∨
      ∃ d, Desc.ofNumber r = some d ∧ s.busy = false ∧ v < 2 ^ d.width s.cfg ∧
        t = s.setDesc v d := by
  obtain rfl | rfl | ⟨h2, h8⟩ | h9 : r = 0 ∨ r = 1 ∨ (2 ≤ r ∧ r ≤ 8) ∨ 9 ≤ r := by omega
  · obtain ⟨hv, ht⟩ | ⟨hv, ht⟩ := writeCtrl_eq_next.1 h
    · exact .inr (.inl ⟨.inl ⟨rfl, hv⟩, ht⟩)
    · exact .inl ⟨rfl, hv, ht⟩
  · cases h
    exact .inr (.inl ⟨.inr rfl, rfl⟩)
  · obtain ⟨d, hd⟩ := exists_ofNumber h2 h8
    rw [hostWriteReg_of_ofNumber hd, writeDesc_eq_next] at h
    exact .inr (.inr ⟨d, hd, h⟩)
  · rw [hostWriteReg_of_ge h9] at h
    cases h

/-- A host read of a descriptor register while BUSY is 0 gives what it holds (R36). -/
theorem readDescHost_of_some {s : State} {d : Desc} {v : Nat} (hb : s.busy = false)
    (hd : s.desc d = some v) : readDescHost d s = s.answer v := by
  simp only [readDescHost, hb, hd]

/-- A host read of a descriptor register gives its value or a free value of its width (R42). -/
theorem readDescHost_cases (d : Desc) (s : State) :
    (∃ v, readDescHost d s = s.answer v) ∨ readDescHost d s = s.answerFree d := by
  unfold readDescHost
  split
  · exact .inl ⟨_, rfl⟩
  · exact .inr rfl

/-- What a read of a register by number does when it answers (R33). -/
theorem hostReadReg_cases {r : Nat} {s t : State} (h : hostReadReg r s = .next t) :
    (∃ v, t = s.answer v) ∨ ∃ d, Desc.ofNumber r = some d ∧ t = s.answerFree d := by
  obtain rfl | rfl | ⟨h2, h8⟩ | h9 : r = 0 ∨ r = 1 ∨ (2 ≤ r ∧ r ≤ 8) ∨ 9 ≤ r := by omega
  · cases h
    exact .inl ⟨_, rfl⟩
  · cases h
    exact .inl ⟨_, rfl⟩
  · obtain ⟨d, hd⟩ := exists_ofNumber h2 h8
    rw [hostReadReg_of_ofNumber hd] at h
    cases h
    exact (readDescHost_cases d s).imp_right fun hfree => ⟨d, hd, hfree⟩
  · rw [hostReadReg_of_ge h9] at h
    cases h

/-- What a host write to memory does when it answers (R180). -/
theorem hostWriteMem_of_next {a : Nat} {bs : List Byte} {s t : State}
    (h : hostWriteMem a bs s = .next t) :
    a + bs.length ≤ 2 ^ s.cfg.addrW ∧ t = { s with mem := Memory.writeSeq s.mem a bs } := by
  unfold hostWriteMem at h
  split at h
  · cases h
  · obtain ⟨u, hu, ht⟩ := attempt_eq_next.1 h
    cases ht
    exact memWrite_eq_ok.1 hu

/-- What a host read of memory does when it answers (R180). -/
theorem hostReadMem_of_next {a : Nat} {s t : State} (h : hostReadMem a s = .next t) :
    ∃ v, t = s.answer v := by
  unfold hostReadMem at h
  split at h
  · cases h
  · obtain ⟨bs, -, ht⟩ := attempt_eq_next.1 h
    cases ht
    exact ⟨_, rfl⟩

/-! The next move. -/

/-- The state once its next move is off the host's list (log 8): the state the move is made in. -/
def State.popped (s : State) : State := { s with inputs := s.inputs.tail }

@[simp] theorem State.popped_cfg (s : State) : s.popped.cfg = s.cfg := rfl
@[simp] theorem State.popped_regS (s : State) : s.popped.regS = s.regS := rfl
@[simp] theorem State.popped_regW (s : State) : s.popped.regW = s.regW := rfl
@[simp] theorem State.popped_rcon (s : State) : s.popped.rcon = s.rcon := rfl
@[simp] theorem State.popped_rk (s : State) : s.popped.rk = s.rk := rfl
@[simp] theorem State.popped_ph (s : State) : s.popped.ph = s.ph := rfl
@[simp] theorem State.popped_blk (s : State) : s.popped.blk = s.blk := rfl
@[simp] theorem State.popped_rnd (s : State) : s.popped.rnd = s.rnd := rfl
@[simp] theorem State.popped_kpos (s : State) : s.popped.kpos = s.kpos := rfl
@[simp] theorem State.popped_nblk (s : State) : s.popped.nblk = s.nblk := rfl
@[simp] theorem State.popped_rkv (s : State) : s.popped.rkv = s.rkv := rfl
@[simp] theorem State.popped_busy (s : State) : s.popped.busy = s.busy := rfl
@[simp] theorem State.popped_done (s : State) : s.popped.done = s.done := rfl
@[simp] theorem State.popped_err (s : State) : s.popped.err = s.err := rfl
@[simp] theorem State.popped_ptAddr (s : State) : s.popped.ptAddr = s.ptAddr := rfl
@[simp] theorem State.popped_ptLen (s : State) : s.popped.ptLen = s.ptLen := rfl
@[simp] theorem State.popped_keyAddr (s : State) : s.popped.keyAddr = s.keyAddr := rfl
@[simp] theorem State.popped_keyLen (s : State) : s.popped.keyLen = s.keyLen := rfl
@[simp] theorem State.popped_ivAddr (s : State) : s.popped.ivAddr = s.ivAddr := rfl
@[simp] theorem State.popped_ivLen (s : State) : s.popped.ivLen = s.ivLen := rfl
@[simp] theorem State.popped_ctAddr (s : State) : s.popped.ctAddr = s.ctAddr := rfl
@[simp] theorem State.popped_envFail (s : State) : s.popped.envFail = s.envFail := rfl
@[simp] theorem State.popped_mem (s : State) : s.popped.mem = s.mem := rfl
@[simp] theorem State.popped_draws (s : State) : s.popped.draws = s.draws := rfl
@[simp] theorem State.popped_rdata (s : State) : s.popped.rdata = s.rdata := rfl
@[simp] theorem State.popped_inputs (s : State) : s.popped.inputs = s.inputs.tail := rfl
@[simp] theorem State.popped_desc (s : State) : s.popped.desc = s.desc := rfl
@[simp] theorem State.popped_readDesc (s : State) (d : Desc) :
    s.popped.readDesc d = s.readDesc d := rfl

/-- A step is the next move, made in the state without it; no move due is the engine's turn. -/
theorem step_eq_serve (s : State) : step s = serve (s.inputs.head?.getD .run) s.popped := by
  unfold step nextMove State.popped
  cases s with
  | mk => rename_i inputs; cases inputs <;> rfl

theorem engineTurn_iff {s : State} : EngineTurn s ↔ s.inputs.head?.getD .run = .run := by
  unfold EngineTurn
  cases s.inputs <;> simp

/-- A move of the list that is not `run` is its first. -/
theorem head?_eq_of_getD {s : State} {m : HostMove} (h : s.inputs.head?.getD .run = m)
    (hm : m ≠ .run) : s.inputs.head? = some m := by
  cases hd : s.inputs.head? with
  | none => rw [hd] at h; exact absurd h.symm hm
  | some m' => rw [hd] at h; exact congrArg some h

/-- Everything a step from s to t can be (R15): a turn of the engine (idle, the ENV_FAIL event, or
the micro-operation of its phase) or a move of the host. -/
inductive StepCase (s t : State) : Prop where
  /-- An idle engine's turn (R181; log 14). -/
  | idle (turn : EngineTurn s) (ph : s.ph = Op.idle) (ht : t = s.popped)
  /-- The ENV_FAIL event (R203). -/
  | event (turn : EngineTurn s) (level : s.envFail = true) (window : s.envFailWindow = true)
      (run : envFailEvent s.popped = .next t)
  /-- A micro-operation, the phase's own (R86). -/
  | micro (turn : EngineTurn s) (i : Instr) (busyPh : s.ph ≠ Op.idle)
      (noEvent : (s.envFail && s.envFailWindow) = false) (decoded : decodeMicro s.issued = .ok i)
      (ph : s.ph = opField (encode i)) (run : exec i s.popped = .next t)
  /-- The command ENCRYPT (R171). -/
  | command (move : s.inputs.head? = some (.writeReg 0 1)) (run : execEncrypt s.popped = .next t)
  /-- A write of 0 to CTRL or of anything to STATUS, which does nothing (R33, R34). -/
  | ignored (r v : Nat) (move : s.inputs.head? = some (.writeReg r v)) (ht : t = s.popped)
  /-- A write to a descriptor register (R36). -/
  | descriptor (r v : Nat) (d : Desc) (move : s.inputs.head? = some (.writeReg r v))
      (number : Desc.ofNumber r = some d) (notBusy : s.busy = false)
      (fits : v < 2 ^ d.width s.cfg) (ht : t = s.popped.setDesc v d)
  /-- A read that answers a value (R33, R180). -/
  | answered (v : Nat) (m : HostMove) (move : s.inputs.head? = some m)
      (isRead : (∃ r, m = .readReg r) ∨ ∃ a, m = .readMem a) (ht : t = s.popped.answer v)
  /-- A read of a descriptor register that answers a free value (R42; log 7). -/
  | answeredFree (r : Nat) (d : Desc) (move : s.inputs.head? = some (.readReg r))
      (number : Desc.ofNumber r = some d) (ht : t = s.popped.answerFree d)
  /-- A host write to memory (R180). -/
  | memory (a : Nat) (bs : List Byte) (move : s.inputs.head? = some (.writeMem a bs))
      (exist : a + bs.length ≤ 2 ^ s.cfg.addrW)
      (ht : t = { s.popped with mem := Memory.writeSeq s.mem a bs })
  /-- A move that drives ENV_FAIL (R38). -/
  | level (l : Bool) (move : s.inputs.head? = some (.envFail l))
      (ht : t = { s.popped with envFail := l })
  /-- Reset (R230). -/
  | reset (move : s.inputs.head? = some .reset) (ht : t = s.popped.assertReset)

/-- The engine's own turn is one of the first three rows. -/
theorem stepCase_of_engineMove {s t : State} (turn : EngineTurn s)
    (h : engineMove s.popped = .next t) : StepCase s t := by
  unfold engineMove at h
  split at h
  · rename_i hph
    cases h
    exact .idle turn hph rfl
  · rename_i hph
    split at h
    · rename_i hev
      obtain ⟨hlevel, hwindow⟩ := Bool.and_eq_true_iff.1 hev
      exact .event turn hlevel hwindow h
    · rename_i hev
      unfold perform at h
      split at h
      · rename_i i hi
        exact .micro turn i hph (Bool.eq_false_iff.2 hev) hi (ph_of_decode_issued hi) h
      · cases h

/-- Every step is one of the rows of `StepCase`. -/
theorem step_cases {s t : State} (h : step s = .next t) : StepCase s t := by
  rw [step_eq_serve] at h
  generalize hm : s.inputs.head?.getD .run = m at h
  cases m with
  | run => exact stepCase_of_engineMove (engineTurn_iff.2 hm) h
  | writeReg r v =>
    have move := head?_eq_of_getD hm nofun
    obtain ⟨rfl, rfl, hrun⟩ | ⟨-, ht⟩ | ⟨d, hd, hb, hv, ht⟩ := hostWriteReg_cases h
    · exact .command move hrun
    · exact .ignored r v move ht
    · exact .descriptor r v d move hd hb hv ht
  | readReg r =>
    have move := head?_eq_of_getD hm nofun
    obtain ⟨v, ht⟩ | ⟨d, hd, ht⟩ := hostReadReg_cases h
    · exact .answered v _ move (.inl ⟨r, rfl⟩) ht
    · exact .answeredFree r d move hd ht
  | writeMem a bs =>
    obtain ⟨hexist, ht⟩ := hostWriteMem_of_next h
    exact .memory a bs (head?_eq_of_getD hm nofun) hexist ht
  | readMem a =>
    obtain ⟨v, ht⟩ := hostReadMem_of_next h
    exact .answered v _ (head?_eq_of_getD hm nofun) (.inr ⟨a, rfl⟩) ht
  | envFail l =>
    cases h
    exact .level l (head?_eq_of_getD hm nofun) rfl
  | reset =>
    cases h
    exact .reset (head?_eq_of_getD hm nofun) rfl

end Sys2Proof.Machine
end

section
/-! SUPPORT for the proofs. What an instruction and a step do to the two parts of the state that the
host sees: the seven descriptor registers (R36) and the four flags (R32). -/

namespace Sys2Proof.Machine

/-! The descriptor registers. -/

@[simp] theorem State.spoil_desc (s : State) (a n : Nat) : (s.spoil a n).desc = s.desc := rfl

theorem arkNext_desc (s : State) : (arkNext s).desc = s.desc := by
  unfold arkNext
  split <;> rfl

theorem kxwNext_desc {p : Nat} {s t : State} (h : kxwNext p s = .next t) : t.desc = s.desc := by
  obtain ⟨-, rfl⟩ | ⟨-, n, -, rfl⟩ := kxwNext_eq_next.1 h <;> rfl

theorem finScratch_desc {s t : State} (h : finScratch s = .ok t) : t.desc = s.desc := by
  obtain ⟨-, -, rfl⟩ | ⟨-, rfl⟩ := finScratch_eq_ok.1 h
  · exact s.spoil_desc _ _
  · rfl

theorem transformS_desc {f : List Byte → List Byte} {p : Nibble} {s t : State}
    (h : transformS f p s = .next t) : t.desc = s.desc := by
  obtain ⟨b, -, rfl⟩ := transformS_eq_next.1 h
  rfl

/-- No instruction writes a descriptor register (R36). -/
theorem exec_desc {i : Instr} {s t : State} (h : exec i s = .next t) : t.desc = s.desc := by
  cases i with
  | encrypt =>
    obtain ⟨-, -, rfl⟩ := execEncrypt_eq_next.1 h
    rfl
  | chk =>
    obtain ⟨-, rfl⟩ | ⟨-, -, rfl⟩ | ⟨-, -, -, -, rfl⟩ := execChk_eq_next.1 h <;> rfl
  | kld =>
    obtain ⟨key, -, rfl⟩ := execKld_eq_next.1 h
    rfl
  | kxw =>
    obtain ⟨-, prev, wr, back, -, -, -, hnext⟩ := execKxw_eq_next.1 h
    rw [kxwNext_desc hnext]
    rfl
  | cbx =>
    obtain ⟨-, p, c, -, -, rfl⟩ := execCbx_eq_next.1 h
    rfl
  | ark k =>
    obtain ⟨-, -, b, key, -, -, rfl⟩ := execArk_eq_next.1 h
    exact arkNext_desc _
  | sub => exact transformS_desc h
  | shr => exact transformS_desc h
  | mix => exact transformS_desc h
  | bst =>
    obtain ⟨b, n, -, -, -, rfl⟩ := execBst_eq_next.1 h
    rfl
  | fin =>
    obtain ⟨u, hu, rfl⟩ := execFin_eq_next.1 h
    rw [← finScratch_desc hu]
    rfl

/-- The ENV_FAIL event writes no descriptor register (R203). -/
theorem envFailEvent_desc {s t : State} (h : envFailEvent s = .next t) : t.desc = s.desc := by
  obtain ⟨-, rfl⟩ := envFailEvent_eq_next.1 h
  rfl

/-- Only a host register write and a reset change a descriptor register (R36). -/
theorem step_desc {s t : State} (h : step s = .next t)
    (hwrite : ∀ r v, s.inputs.head? ≠ some (.writeReg r v))
    (hreset : s.inputs.head? ≠ some .reset) :
    t.desc = s.desc := by
  cases step_cases h with
  | event _ _ _ run => rw [envFailEvent_desc run, State.popped_desc]
  | micro _ _ _ _ _ _ run => rw [exec_desc run, State.popped_desc]
  | command move _ => exact absurd move (hwrite _ _)
  | ignored r v move _ => exact absurd move (hwrite r v)
  | descriptor r v _ move => exact absurd move (hwrite r v)
  | reset move _ => exact absurd move hreset
  | idle _ _ ht => rw [ht]; rfl
  | answered _ _ _ _ ht => rw [ht]; rfl
  | answeredFree _ _ _ _ ht => rw [ht]; rfl
  | memory _ _ _ _ ht => rw [ht]; rfl
  | level _ _ ht => rw [ht]; rfl

/-- A write to a descriptor register changes nothing but the seven of them. -/
theorem State.setDesc_frame (s : State) (v : Nat) (d : Desc) :
    s.setDesc v d = { s with
      ptAddr := (s.setDesc v d).ptAddr, ptLen := (s.setDesc v d).ptLen,
      keyAddr := (s.setDesc v d).keyAddr, keyLen := (s.setDesc v d).keyLen,
      ivAddr := (s.setDesc v d).ivAddr, ivLen := (s.setDesc v d).ivLen,
      ctAddr := (s.setDesc v d).ctAddr } := by
  cases d <;> rfl

/-- While BUSY is 0 a value that fits a descriptor register is written (R36). -/
theorem hostWriteReg_descriptor {s : State} {r v : Nat} {d : Desc}
    (hd : Desc.ofNumber r = some d) (hb : s.busy = false) (hv : v < 2 ^ d.width s.cfg) :
    hostWriteReg r v s = .next (s.setDesc v d) := by
  rw [hostWriteReg_of_ofNumber hd]
  exact writeDesc_eq_next.2 ⟨hb, hv, rfl⟩

/-- What is written to a descriptor register is what a read then returns (R36). -/
theorem hostReadReg_setDesc {s : State} {r : Nat} {d : Desc} (hd : Desc.ofNumber r = some d)
    (hb : s.busy = false) (v : Nat) :
    hostReadReg r (s.setDesc v d) = .next ((s.setDesc v d).answer v) := by
  rw [hostReadReg_of_ofNumber hd,
    readDescHost_of_some ((s.setDesc_busy v d).trans hb) (s.desc_setDesc_same v d)]

/-! The flags. -/

/-- The four flags: RKV, BUSY, DONE and ERR (R32). -/
def State.flags (s : State) : Bool × Bool × Bool × Nibble := (s.rkv, s.busy, s.done, s.err)

theorem flags_eq_iff {s : State} {rkv busy done : Bool} {err : Nibble} :
    s.flags = (rkv, busy, done, err) ↔
      s.rkv = rkv ∧ s.busy = busy ∧ s.done = done ∧ s.err = err := by
  simp [State.flags]

theorem arkNext_flags (s : State) : (arkNext s).flags = s.flags := by
  unfold arkNext
  split <;> rfl

theorem finScratch_err {s t : State} (h : finScratch s = .ok t) : t.err = s.err := by
  obtain ⟨-, -, rfl⟩ | ⟨-, rfl⟩ := finScratch_eq_ok.1 h
  · exact s.spoil_err _ _
  · rfl

theorem transformS_flags {f : List Byte → List Byte} {p : Nibble} {s t : State}
    (h : transformS f p s = .next t) : t.flags = s.flags := by
  obtain ⟨b, -, rfl⟩ := transformS_eq_next.1 h
  rfl

theorem execEncrypt_flags {s t : State} (h : execEncrypt s = .next t) :
    t.flags = (s.rkv, true, false, Err.ok) := by
  obtain ⟨-, -, rfl⟩ := execEncrypt_eq_next.1 h
  rfl

/-- CHK writes no flag but ERR (R176). -/
theorem execChk_flags {s t : State} (h : execChk s = .next t) :
    t.flags = (s.rkv, s.busy, s.done, t.err) := by
  obtain ⟨-, rfl⟩ | ⟨-, -, rfl⟩ | ⟨-, -, -, -, rfl⟩ := execChk_eq_next.1 h <;> rfl

theorem execKld_flags {s t : State} (h : execKld s = .next t) :
    t.flags = (false, s.busy, s.done, s.err) := by
  obtain ⟨key, -, rfl⟩ := execKld_eq_next.1 h
  rfl

/-- KXW writes no flag, but at its last position it sets RKV (R123). -/
theorem execKxw_flags {s t : State} (h : execKxw s = .next t) :
    t.flags = s.flags ∨ (s.kpos = 172#8 ∧ t.flags = (true, s.busy, s.done, s.err)) := by
  obtain ⟨hpos, prev, wr, back, -, -, -, hnext⟩ := execKxw_eq_next.1 h
  obtain ⟨-, rfl⟩ | ⟨hlast, n, -, rfl⟩ := kxwNext_eq_next.1 hnext
  · exact .inl rfl
  · have := (kposOk_iff.1 hpos).2.1
    exact .inr ⟨BitVec.eq_of_toNat_eq (show s.kpos.toNat = 172 by omega), rfl⟩

theorem execCbx_flags {s t : State} (h : execCbx s = .next t) : t.flags = s.flags := by
  obtain ⟨-, p, c, -, -, rfl⟩ := execCbx_eq_next.1 h
  rfl

theorem execArk_flags {k : Nibble} {s t : State} (h : execArk k s = .next t) :
    t.flags = s.flags := by
  obtain ⟨-, -, b, key, -, -, rfl⟩ := execArk_eq_next.1 h
  exact arkNext_flags _

theorem execBst_flags {s t : State} (h : execBst s = .next t) : t.flags = s.flags := by
  obtain ⟨b, n, -, -, -, rfl⟩ := execBst_eq_next.1 h
  rfl

theorem execFin_flags {s t : State} (h : execFin s = .next t) :
    t.flags = (false, false, true, s.err) := by
  obtain ⟨u, hu, rfl⟩ := execFin_eq_next.1 h
  rw [← finScratch_err hu]
  rfl

theorem envFailEvent_flags {s t : State} (h : envFailEvent s = .next t) :
    t.flags = (s.rkv, s.busy, s.done, Err.executionEnvironmentFailure) := by
  obtain ⟨-, rfl⟩ := envFailEvent_eq_next.1 h
  rfl

theorem assertReset_flags (s : State) : s.assertReset.flags = (false, false, false, Err.ok) := by
  unfold State.assertReset
  dsimp only
  split <;> rfl

/-- The rows of R32's table read by writer: what a step from s to t can do to the flags. -/
inductive FlagMove (s t : State) : Prop where
  | kept (flags : t.flags = (s.rkv, s.busy, s.done, s.err))
  | chk (turn : EngineTurn s) (ph : s.ph = Op.chk)
      (flags : t.flags = (s.rkv, s.busy, s.done, t.err))
  | event (turn : EngineTurn s) (level : s.envFail = true) (window : s.envFailWindow = true)
      (flags : t.flags = (s.rkv, s.busy, s.done, Err.executionEnvironmentFailure))
  | kld (turn : EngineTurn s) (ph : s.ph = Op.kld)
      (flags : t.flags = (false, s.busy, s.done, s.err))
  | kxwLast (turn : EngineTurn s) (ph : s.ph = Op.kxw) (kpos : s.kpos = 172#8)
      (flags : t.flags = (true, s.busy, s.done, s.err))
  | fin (turn : EngineTurn s) (ph : s.ph = Op.fin) (flags : t.flags = (false, false, true, s.err))
  | command (move : s.inputs.head? = some (.writeReg 0 1))
      (flags : t.flags = (s.rkv, true, false, Err.ok))
  | reset (move : s.inputs.head? = some .reset) (flags : t.flags = (false, false, false, Err.ok))

/-- A micro-operation's turn is a row of R32's table. -/
theorem flagMove_of_micro {s t : State} {i : Instr} (turn : EngineTurn s) (hidle : s.ph ≠ Op.idle)
    (hph : s.ph = opField (encode i)) (h : exec i s.popped = .next t) : FlagMove s t := by
  cases i with
  | encrypt => exact absurd hph hidle
  | chk => exact .chk turn hph (execChk_flags (s := s.popped) h)
  | kld => exact .kld turn hph (execKld_flags (s := s.popped) h)
  | kxw =>
    obtain hkept | ⟨hkpos, hset⟩ := execKxw_flags (s := s.popped) h
    · exact .kept hkept
    · exact .kxwLast turn hph hkpos hset
  | cbx => exact .kept (execCbx_flags (s := s.popped) h)
  | ark k => exact .kept (execArk_flags (s := s.popped) h)
  | sub => exact .kept (transformS_flags (s := s.popped) h)
  | shr => exact .kept (transformS_flags (s := s.popped) h)
  | mix => exact .kept (transformS_flags (s := s.popped) h)
  | bst => exact .kept (execBst_flags (s := s.popped) h)
  | fin => exact .fin turn hph (execFin_flags (s := s.popped) h)

/-- What every step does to the flags is a row of R32's table. -/
theorem step_flagMove {s t : State} (h : step s = .next t) : FlagMove s t := by
  cases step_cases h with
  | event turn level window run =>
    exact .event turn level window (envFailEvent_flags (s := s.popped) run)
  | micro turn i hidle _ _ hph run => exact flagMove_of_micro turn hidle hph run
  | command move run => exact .command move (execEncrypt_flags (s := s.popped) run)
  | descriptor _ v d _ _ _ _ ht => exact .kept (by rw [ht]; cases d <;> rfl)
  | reset move ht => exact .reset move (ht ▸ assertReset_flags _)
  | idle _ _ ht => exact .kept (by rw [ht]; rfl)
  | ignored _ _ _ ht => exact .kept (by rw [ht]; rfl)
  | answered _ _ _ _ ht => exact .kept (by rw [ht]; rfl)
  | answeredFree _ _ _ _ ht => exact .kept (by rw [ht]; rfl)
  | memory _ _ _ _ ht => exact .kept (by rw [ht]; rfl)
  | level _ _ ht => exact .kept (by rw [ht]; rfl)

end Sys2Proof.Machine
end

section
/-! SUPPORT for the proofs. The stops of R28 and R32: reads of bytes that hold no value, and the
operations that require a schedule. -/

namespace Sys2Proof.Machine

/-- A read that can stop only as UnwrittenRead (R28), before a rest that stops so, stops so. -/
theorem attempt_unwritten {α : Type} {e : Except Fault α} {k : α → Result}
    (he : ∀ f, e = .error f → f = .unwrittenRead)
    (hk : ∀ a, e = .ok a → k a = .fault .unwrittenRead) :
    attempt e k = .fault .unwrittenRead := by
  cases e with
  | ok a => exact hk a rfl
  | error f => rw [he f rfl]; rfl

theorem readReg_none {α : Type} {r : Option α} (h : r = none) :
    readReg r = .error .unwrittenRead := readReg_eq_error.2 ⟨h, rfl⟩

/-- The word step of KXW reads RCON at a boundary and can stop only there (R28, R123). -/
theorem kxwWord_error {p : Nat} {prev : List Byte} {rcon : Option Byte} {f : Fault}
    (h : kxwWord p prev rcon = .error f) : f = .unwrittenRead := by
  unfold kxwWord at h
  split at h
  · split at h
    · cases h
    · rename_i hf
      cases h
      exact (readReg_eq_error.1 hf).2
  · cases h

/-- At a boundary the word step of KXW needs RCON (R28, R126). -/
theorem kxwWord_none {p : Nat} (prev : List Byte) {rcon : Option Byte} (hp : p % 16 = 0)
    (h : rcon = none) : kxwWord p prev rcon = .error .unwrittenRead := by
  rw [kxwWord, if_pos hp, readReg_none h]

/-- A read of a register group with a byte that holds no value gives no bytes (R28). -/
theorem readFile_ne_ok {f : ByteFile} {i n j : Nat} (hj : j < n)
    (h : f.getD (i + j) none = none) (bs : List Byte) : readFile f i n ≠ .ok bs := by
  rw [readFile_unwritten hj h]
  exact nofun

theorem transformS_unwritten (f : List Byte → List Byte) (p : Nibble) {s : State} {j : Nat}
    (hj : j < 16) (h : s.regS.getD j none = none) :
    transformS f p s = .fault .unwrittenRead := by
  rw [transformS, readFile_unwritten hj (by rwa [Nat.zero_add]), attempt_error]

theorem execBst_unwritten_regS {s : State} {j : Nat} (hj : j < 16)
    (h : s.regS.getD j none = none) : execBst s = .fault .unwrittenRead := by
  rw [execBst, readFile_unwritten hj (by rwa [Nat.zero_add]), attempt_error]

theorem execBst_unwritten_nblk {s : State} (h : s.nblk = none) :
    execBst s = .fault .unwrittenRead :=
  attempt_unwritten (fun _ => readFile_error) fun b _ => by rw [readReg_none h, attempt_error]

theorem execArk_unwritten_regS {s : State} {k : Nibble} {j : Nat} (hk : k.toNat ≤ 10)
    (hrkv : s.rkv = true) (hj : j < 16) (h : s.regS.getD j none = none) :
    execArk k s = .fault .unwrittenRead := by
  rw [execArk, if_pos hk, if_pos hrkv, readFile_unwritten hj (by rwa [Nat.zero_add]),
    attempt_error]

theorem execArk_unwritten_rk {s : State} {k : Nibble} {j : Nat} (hk : k.toNat ≤ 10)
    (hrkv : s.rkv = true) (hj : j < 16) (h : s.rk.getD (16 * k.toNat + j) none = none) :
    execArk k s = .fault .unwrittenRead := by
  rw [execArk, if_pos hk, if_pos hrkv]
  exact attempt_unwritten (fun _ => readFile_error) fun b _ => by
    rw [readFile_unwritten hj h, attempt_error]

/-- A byte, RCON or NBLK that KXW reads at its position holds no value (R123). -/
def State.kxwLacks (s : State) (p : Nat) : Prop :=
  (∃ j < 4, s.rk.getD (p - 4 + j) none = none ∨ s.rk.getD (p - 16 + j) none = none) ∨
    (p % 16 = 0 ∧ s.rcon = none) ∨ (p = 172 ∧ s.nblk = none)

/-- Where KXW's three reads of RK and RCON succeed, what it lacks is NBLK at the last word. -/
theorem nblk_none_of_kxwLacks {s : State} {p : Nat} {prev back : List Byte}
    {wr : List Byte × Option Byte} (h : s.kxwLacks p) (hprev : readFile s.rk (p - 4) 4 = .ok prev)
    (hwr : kxwWord p prev s.rcon = .ok wr) (hback : readFile s.rk (p - 16) 4 = .ok back) :
    p = 172 ∧ s.nblk = none := by
  obtain ⟨j, hj, hnone | hnone⟩ | ⟨hp, hrcon⟩ | hnblk := h
  · exact absurd hprev (readFile_ne_ok hj hnone _)
  · exact absurd hback (readFile_ne_ok hj hnone _)
  · rw [kxwWord_none prev hp hrcon] at hwr
    cases hwr
  · exact hnblk

/-- KXW stops when something it reads holds no value (R28). -/
theorem execKxw_unwritten {s : State} (hpos : kposOk s.kpos.toNat = true)
    (h : s.kxwLacks s.kpos.toNat) : execKxw s = .fault .unwrittenRead := by
  unfold execKxw
  dsimp only
  rw [if_pos hpos]
  refine attempt_unwritten (fun _ => readFile_error) fun prev hprev => ?_
  refine attempt_unwritten (fun _ => kxwWord_error) fun wr hwr => ?_
  refine attempt_unwritten (fun _ => readFile_error) fun back hback => ?_
  obtain ⟨hlast, hnblk⟩ := nblk_none_of_kxwLacks h hprev hwr hback
  rw [kxwNext, if_neg (by omega), readReg_none hnblk, attempt_error]

/-- CBX needs a complete schedule (R32, R172). -/
theorem execCbx_of_not_rkv {s : State} (h : s.rkv = false) :
    execCbx s = .fault .scheduleNotValid := by
  rw [execCbx, h, if_neg Bool.false_ne_true]

/-- ARK needs a complete schedule (R32, R144). -/
theorem execArk_of_not_rkv {s : State} {k : Nibble} (hk : k.toNat ≤ 10) (h : s.rkv = false) :
    execArk k s = .fault .scheduleNotValid := by
  rw [execArk, if_pos hk, h, if_neg Bool.false_ne_true]

end Sys2Proof.Machine
end

section
/-! The statements of the registers, flags and reset values (10_state.md). -/

namespace Sys2Proof.Machine

/-- Settles O23: each read that R28 names stops so, and the reads before it can stop in no other
way. -/
theorem unwrittenReadStops : Obligations.UnwrittenReadStops := by
  intro s
  refine ⟨fun j hj h => ⟨?_, ?_, ?_, ?_, ?_⟩, execBst_unwritten_nblk, ?_, ?_, ?_⟩
  · exact transformS_unwritten _ _ hj h
  · exact transformS_unwritten _ _ hj h
  · exact transformS_unwritten _ _ hj h
  · exact execBst_unwritten_regS hj h
  · exact fun hrkv k hk => execArk_unwritten_regS hk hrkv hj h
  · exact fun k hk hrkv j hj h => execArk_unwritten_rk hk hrkv hj h
  · rintro p rfl h16 h172 h4 hlacks
    exact execKxw_unwritten (kposOk_iff.2 ⟨h16, h172, h4⟩) hlacks
  · rintro t (rfl | hfin)
    · exact ⟨rfl, rfl, rfl, rfl, rfl⟩
    · obtain ⟨u, -, rfl⟩ := execFin_eq_next.1 hfin
      exact ⟨rfl, rfl, rfl, rfl, rfl⟩

/-- Settles O42, from what a step does to the four flags together (`FlagMove`). -/
theorem flagWriters : Obligations.FlagWriters := by
  refine ⟨⟨rfl, rfl, rfl, rfl⟩,
    fun s h => ⟨execCbx_of_not_rkv h, fun k hk => execArk_of_not_rkv hk h⟩, fun s t h => ?_⟩
  -- A flag that a row leaves as it was has no clause to meet; the rest are the row's own facts.
  cases step_flagMove h
  all_goals
    rename_i flags
    obtain ⟨hrkv, hbusy, hdone, herr⟩ := flags_eq_iff.1 flags
    simp_all

/-- Settles O47: the write is `setDesc`, and no instruction and no other step touches one. -/
theorem descriptorRegisters : Obligations.DescriptorRegisters := by
  refine ⟨fun s r v d hd hb hv => ?_, fun i s t h d => congrFun (exec_desc h) d,
    fun s t h hwrite hreset d => congrFun (step_desc h hwrite hreset) d⟩
  exact ⟨s.setDesc v d, hostWriteReg_descriptor hd hb hv, s.desc_setDesc_same v d,
    fun e he => s.desc_setDesc_ne v he, s.setDesc_frame v d, hostReadReg_setDesc hd hb v⟩

/-- Settles O48, number by number. -/
theorem registersByNumber : Obligations.RegistersByNumber := by
  intro s r v
  refine ⟨rfl, fun d hd hb hv => ?_, rfl, rfl, rfl, fun h2 h8 hb => ?_, fun h9 => ?_⟩
  · exact ⟨_, hostWriteReg_descriptor hd hb hv, hostReadReg_setDesc hd hb v⟩
  · obtain ⟨d, hd⟩ := exists_ofNumber h2 h8
    rw [hostWriteReg_of_ofNumber hd, writeDesc, if_pos hb]
  · exact ⟨hostWriteReg_of_ge h9 v s, hostReadReg_of_ge h9 s⟩

/-- At reset a read of a descriptor register answers a free value of its width (R42). -/
theorem readDescHost_reset (d : Desc) :
    readDescHost d State.reset = State.reset.answerFree d := by cases d <;> rfl

/-- Settles O52: the fields by computation, the descriptor reads by `readDescHost_reset`. -/
theorem resetValues : Obligations.ResetValues := by
  refine ⟨rfl, rfl, rfl, rfl, rfl, rfl, rfl, fun d => by cases d <;> rfl, rfl, rfl, rfl, rfl, rfl,
    rfl, rfl, rfl, fun r d hd => ?_⟩
  refine ⟨State.reset.answerFree d, _, ?_, rfl, Nat.mod_lt _ (Nat.two_pow_pos _)⟩
  rw [hostReadReg_of_ofNumber hd, readDescHost_reset]

end Sys2Proof.Machine
end

section
/-! SUPPORT for the proofs. The ciphertext buffer between two blocks: what a BST leaves for the next
block to read, and the chain input of the CBX of a later block (R64, R172, R173). -/

namespace Sys2Proof.Machine

/-- BST stores the block S holds at block BLK of the ciphertext buffer, advances BLK and keeps the
descriptor (R173). -/
theorem execBst_stores {s t : State} {b : List Byte} (h : execBst s = .next t)
    (hS : s.regS = holding b) (hlen : b.length = 16) :
    t.mem = Memory.writeSeq s.mem (blockAddr (s.readDesc .ctAddr) s.blk) b ∧ t.blk = s.blk + 1 ∧
      t.desc = s.desc := by
  obtain ⟨b', n, hb, -, -, rfl⟩ := execBst_eq_next.1 h
  rw [hS, ← hlen, readFile_holding] at hb
  cases hb
  exact ⟨rfl, rfl, rfl⟩

/-- CBX of a later block makes S the plaintext block xor the ciphertext block before it (R172). -/
theorem execCbx_regS_of_blk_ne_zero {s t : State} (h : execCbx s = .next t) (hblk : s.blk ≠ 0) :
    t.regS = holding (xorBytes
      (Memory.bytes s.mem (blockAddr (s.readDesc .ptAddr) s.blk) 16)
      (Memory.bytes s.mem (blockAddr (s.readDesc .ctAddr) (s.blk - 1)) 16)) := by
  obtain ⟨-, p, c, hp, hchain, rfl⟩ := execCbx_eq_next.1 h
  obtain ⟨hzero, -⟩ | ⟨-, hc⟩ := readChain_eq_ok.1 hchain
  · exact absurd hzero hblk
  · rw [← (memRead_eq_ok.1 hp).2, ← (memRead_eq_ok.1 hc).2]

end Sys2Proof.Machine
end

section
/-! The statement of device memory (20_memory.md). -/

namespace Sys2Proof.Machine

/-- Settles O33: BST advances BLK past the block it stores to, and the CBX reads that block back. -/
theorem chainReadsStoredBlock : Obligations.ChainReadsStoredBlock := by
  rintro s t u pt ct b p hbst hcbx hS hlen hct hpt rfl
  obtain ⟨hmem, hblk, hdesc⟩ := execBst_stores hbst hS hlen
  have hchain : Memory.bytes t.mem (ct + 16 * (t.blk - 1)) 16 = b := by
    have hstored := Memory.bytes_writeSeq_same s.mem (ct + 16 * s.blk) b
    rw [hlen] at hstored
    rw [hmem, hblk, readDesc_of_some (d := .ctAddr) hct, Nat.add_sub_cancel, blockAddr]
    exact hstored
  have htct : t.readDesc .ctAddr = ct := readDesc_of_some ((congrFun hdesc .ctAddr).trans hct)
  have htpt : t.readDesc .ptAddr = pt := readDesc_of_some ((congrFun hdesc .ptAddr).trans hpt)
  refine ⟨hchain, ?_⟩
  rw [execCbx_regS_of_blk_ne_zero hcbx (by omega), htct, htpt, blockAddr, blockAddr, hchain]
  rfl

end Sys2Proof.Machine
end

section
/-! SUPPORT for the proofs. The decoders on the words of the encoder, and what a word that decodes is
(R82 to R84, R88). -/

namespace Sys2Proof

@[simp] theorem kField_microWord (op k : Nibble) : kField (microWord op k) = k :=
  BitVec.extractLsb'_append_eq_right

/-- The row of ARK, the only one with an operand: k up to 10 decodes, 11..15 is reserved (R83, R88). -/
theorem decodeMicro_microWord_ark (k : Nibble) :
    decodeMicro (microWord Op.ark k) =
      if k.toNat ≤ 10 then .ok (.ark k) else .error .reservedWord := by
  simp [decodeMicro]

/-- Format U gives back the well-formed micro-operations, and ENCRYPT, of format H, never (R83). -/
theorem decodeMicro_encode_eq_ok {i : Instr} :
    decodeMicro (encode i) = .ok i ↔ i ≠ .encrypt ∧ i.wf = true := by
  cases i with
  | ark k => simp [encode, decodeMicro_microWord_ark, Instr.wf]
  | _ => decide

theorem wf_of_decodeMicro {w : Byte} {i : Instr} (h : decodeMicro w = .ok i) : i.wf = true := by
  obtain rfl := encode_of_decodeMicro h
  exact (decodeMicro_encode_eq_ok.1 h).2

/-- The only command word that names an instruction is that of ENCRYPT (R84). -/
theorem decodeCommand_eq_some {w : Byte} {i : Instr} :
    decodeCommand w = .ok (some i) ↔ i = .encrypt ∧ w = encode .encrypt := by
  unfold decodeCommand
  split
  case h_1 hw => simp [encode, BitVec.toNat_eq, hw]
  case h_2 hw => simp [encode, BitVec.toNat_eq, hw, eq_comm]
  case h_3 hw => simpa [encode, BitVec.toNat_eq] using fun _ => hw

/-- Only the word of ENCRYPT has a zero op field, so it alone is read as format H (R82, R84). -/
theorem opField_encode_eq_idle {i : Instr} : opField (encode i) = Op.idle ↔ i = .encrypt := by
  cases i with
  | ark k => simp [encode, show Op.ark ≠ Op.idle by decide]
  | _ => decide

/-- What a word that decodes is: the command ENCRYPT, or a valid word of format U. -/
theorem decode_eq_ok {w : Byte} {i : Instr} :
    decode w = .ok i ↔
      (i = .encrypt ∧ w = encode .encrypt) ∨ (opField w ≠ Op.idle ∧ decodeMicro w = .ok i) := by
  rw [← decodeCommand_eq_some]
  unfold decode
  split
  case isTrue hop => split <;> simp [*]
  case isFalse hop =>
    have hcmd : decodeCommand w ≠ .ok (some i) := fun h => by
      rw [(decodeCommand_eq_some.1 h).2] at hop
      exact hop (opField_encode_eq_idle.2 rfl)
    simp [hop, hcmd]

end Sys2Proof
end

section
/-! The statements of the encodings (30_encoding.md). -/

namespace Sys2Proof

/-- Settles O1: ENCRYPT decodes as format H, every other well-formed instruction as format U. -/
theorem decodeEncodeRoundTrip : Obligations.DecodeEncodeRoundTrip := by
  intro i hwf
  by_cases hi : i = .encrypt
  · exact decode_eq_ok.2 (.inl ⟨hi, congrArg encode hi⟩)
  · exact decode_eq_ok.2
      (.inr ⟨mt opField_encode_eq_idle.1 hi, decodeMicro_encode_eq_ok.2 ⟨hi, hwf⟩⟩)

/-- Settles O2: a word of either format that decodes is the word of its well-formed instruction. -/
theorem decodedWordEncodesBack : Obligations.DecodedWordEncodesBack := by
  intro w i h
  obtain ⟨rfl, rfl⟩ | ⟨-, hmicro⟩ := decode_eq_ok.1 h
  · exact ⟨rfl, rfl⟩
  · exact ⟨encode_of_decodeMicro hmicro, wf_of_decodeMicro hmicro⟩

/-- Settles O3: the nine patterns without operand by evaluation, ARK at each k by its row. -/
theorem microOperationPatterns : Obligations.MicroOperationPatterns := by
  have hark (k : Nibble) (hk : k.toNat ≤ 10) : decodeMicro (0b0101#4 ++ k) = .ok (.ark k) :=
    (decodeMicro_microWord_ark k).trans (if_pos hk)
  exact ⟨rfl, rfl, rfl, rfl, hark, rfl, rfl, rfl, rfl, rfl⟩

end Sys2Proof
end

section
/-! SUPPORT for the proofs. The multiplier of GF(2^8) and the remainder modulo 0x11B
(40_function_units.md section 2). -/

namespace Sys2Proof.Machine

/-- The loop of R105 gathers the iterated doublings of a at the set bits of b. -/
theorem gfmulLoop_eq_foldl (n : Nat) (a b p : Byte) :
    gfmulLoop n a b p =
      (List.range n).foldl (fun p i => if b.getLsbD i then p ^^^ xtime^[i] a else p) p := by
  induction n generalizing a b p with
  | zero => rfl
  | succ n ih =>
    simp [gfmulLoop, ih, List.range_succ_eq_map, List.foldl_map, Nat.add_comm 1]

/-- The remainder is linear: each turn adds a multiple of the modulus chosen by one bit alone. -/
theorem polyReduce_xor (p q : BitVec 16) :
    polyReduce (p ^^^ q) = polyReduce p ^^^ polyReduce q := by
  unfold polyReduce
  rw [← BitVec.setWidth_xor]
  congr 1
  generalize List.range 8 = js
  induction js generalizing p q with
  | nil => rfl
  | cons j js ih =>
    simp only [List.foldl_cons, ← ih, BitVec.getLsbD_xor]
    congr 1
    generalize 0x11B#16 <<< (7 - j) = m
    cases p.getLsbD (15 - j) <;> cases q.getLsbD (15 - j)
    case false.false => rfl
    case false.true => exact BitVec.xor_assoc p q m
    case true.false => exact (show p ^^^ q ^^^ m = p ^^^ m ^^^ q by ac_rfl)
    case true.true =>
      calc p ^^^ q = p ^^^ q ^^^ (m ^^^ m) := by rw [BitVec.xor_self, BitVec.xor_zero]
        _ = p ^^^ m ^^^ (q ^^^ m) := by ac_rfl

/-- A polynomial of degree at most 7 is its own remainder: the bits 15 to 8 are all clear. -/
theorem polyReduce_setWidth (a : Byte) : polyReduce (a.setWidth 16) = a := by
  simp [polyReduce, List.range_succ]

/-- The multiples of the modulus by a power of x have remainder 0. -/
theorem polyReduce_modulus_shiftLeft : ∀ i < 8, polyReduce (0x11B#16 <<< i) = 0#8 := by decide

/-- `xtime` is multiplication by x with at most one modulus taken off (R106). -/
theorem setWidth_shiftLeft_one (a : Byte) :
    a.setWidth 16 <<< 1 = (xtime a).setWidth 16 ^^^ if a.msb then 0x11B#16 else 0#16 := by
  revert a; decide

/-- A factor x of the polynomial may be taken into the byte, modulo a shifted modulus (R106). -/
theorem polyReduce_shiftLeft_succ (a : Byte) {i : Nat} (hi : i < 8) :
    polyReduce (a.setWidth 16 <<< (i + 1)) = polyReduce ((xtime a).setWidth 16 <<< i) := by
  rw [Nat.add_comm, BitVec.shiftLeft_add, setWidth_shiftLeft_one, BitVec.shiftLeft_xor_distrib,
    polyReduce_xor]
  cases a.msb with
  | true => simp [polyReduce_modulus_shiftLeft i hi]
  | false => simp [show polyReduce 0#16 = 0#8 by decide]

/-- The remainder of a byte times x^i is its i-th doubling. -/
theorem polyReduce_shiftLeft (a : Byte) {i : Nat} (hi : i ≤ 8) :
    polyReduce (a.setWidth 16 <<< i) = xtime^[i] a := by
  induction i generalizing a with
  | zero => simp [polyReduce_setWidth]
  | succ i ih => rw [polyReduce_shiftLeft_succ a hi, ih _ (by omega), Function.iterate_succ_apply]

end Sys2Proof.Machine
end

section
/-! The statement of the multiplier (40_function_units.md). -/

namespace Sys2Proof.Machine

/-- Settles O7: the loop and the product choose the same terms by the bits of b, and the remainder
is linear and sends the term of bit i, a times x^i, to the i-th doubling that the loop adds. -/
theorem gfmulIsReducedProduct : Obligations.GfmulIsReducedProduct := by
  intro a b
  unfold gfmul polyProduct
  rw [gfmulLoop_eq_foldl]
  refine List.foldl_rel (r := fun x p => x = polyReduce p) (by decide) ?_
  rintro i hi _ p rfl
  have hterm : polyReduce (a.setWidth 16 <<< i) = xtime^[i] a :=
    polyReduce_shiftLeft a (List.mem_range.1 hi).le
  simp only [apply_ite polyReduce, polyReduce_xor, hterm]

end Sys2Proof.Machine
end

section
/-! SUPPORT for the proofs. A turn of the engine that performs a micro-operation (R86), and runs
of such turns. -/

namespace Sys2Proof.Machine

theorem State.popped_of_nil {s : State} (h : s.inputs = []) : s.popped = s := by
  cases s
  cases h
  rfl

/-- On its turn, not idle and with no event to take, the engine performs its position's word. -/
theorem step_eq_exec {s : State} {i : Instr} (turn : EngineTurn s) (hidle : s.ph ≠ Op.idle)
    (hev : (s.envFail && s.envFailWindow) = false) (hi : decodeMicro s.issued = .ok i) :
    step s = exec i s.popped := by
  have hissued : s.popped.issued = s.issued := rfl
  have hnoEvent : ¬ (s.popped.envFail && s.popped.envFailWindow) = true := by
    rw [Bool.not_eq_true]
    exact hev
  rw [step_eq_serve, engineTurn_iff.1 turn, serve, engineMove, State.popped_ph, if_neg hidle,
    if_neg hnoEvent, perform, hissued, hi]

/-- With no host move due and ENV_FAIL low, a step in a phase other than ARK performs the phase's
own operation (R30, R85). -/
theorem step_eq_exec_of_quiet {s : State} {i : Instr} {op : Nibble} (hin : s.inputs = [])
    (henv : s.envFail = false) (hph : s.ph = op) (hark : op ≠ Op.ark)
    (hi : decodeMicro (microWord op 0#4) = .ok i) (hidle : op ≠ Op.idle) : step s = exec i s := by
  have hissued : s.issued = microWord op 0#4 := by rw [State.issued, hph, if_neg hark]
  have hev : (s.envFail && s.envFailWindow) = false := by rw [henv, Bool.false_and]
  rw [step_eq_exec (.inl hin) (by rwa [hph]) hev (by rwa [hissued]), State.popped_of_nil hin]

/-- A run goes on from where its first step leads. -/
theorem run_succ_of_step {s t : State} (h : step s = .next t) (k : Nat) :
    Host.Core.run Sys2Proof.core (k + 1) s = Host.Core.run Sys2Proof.core k t := by
  have hstep : Sys2Proof.core.step s = .next t := h
  simp only [Host.Core.run, hstep]

end Sys2Proof.Machine
end

section
/-! SUPPORT for the proofs. The key store as KLD and KXW read and write it, and KXW as one equation
of its reads (41_key_scheduler.md). -/

namespace Sys2Proof.Machine

/-! The byte files. -/

/-- `writeFile_getD_inside` with the byte as an option. -/
theorem writeFile_getD_eq_getElem? (f : ByteFile) (i : Nat) (bs : List Byte) {j : Nat}
    (h : j < bs.length) (hf : i + bs.length ≤ f.length) :
    (writeFile f i bs).getD (i + j) none = bs[j]? := by
  rw [writeFile_getD_inside f i bs h hf, List.getElem?_eq_getElem h]

theorem writeFile_append (f : ByteFile) (i : Nat) (bs cs : List Byte) :
    writeFile f i (bs ++ cs) = writeFile (writeFile f i bs) (i + bs.length) cs := by
  induction bs generalizing f i with
  | nil => rfl
  | cons b bs ih =>
    rw [List.cons_append, writeFile, writeFile, ih, List.length_cons, Nat.add_comm bs.length 1,
      Nat.add_assoc]

/-- A write of a whole register group leaves nothing of what it held. -/
theorem writeFile_full {f : ByteFile} {bs : List Byte} (h : bs.length = f.length) :
    writeFile f 0 bs = holding bs := by
  refine List.ext_getElem (by simp [h]) fun j hj hj' => ?_
  have hbs : j < bs.length := by simpa using hj'
  have hget := writeFile_getD_inside f 0 bs hbs (by omega)
  simpa [List.getD, List.getElem?_eq_getElem hj, holding] using hget

/-- A read inside what was written from index 0 on gives that part of it. -/
theorem readFile_writeFile {f : ByteFile} {bs : List Byte} {i n : Nat} (hi : i + n ≤ bs.length)
    (hf : bs.length ≤ f.length) :
    readFile (writeFile f 0 bs) i n = .ok ((bs.drop i).take n) := by
  refine readFile_eq_ok.2 ⟨by simp; omega, fun j hj => ?_⟩
  have hlt : i + j < bs.length := by simp at hj; omega
  have hget := writeFile_getD_inside f 0 bs hlt (by omega)
  rw [Nat.zero_add] at hget
  rw [hget, List.getElem_take, List.getElem_drop]

/-- The word that begins k bytes before position p, read byte by byte. -/
theorem readFile_four_back {f : ByteFile} {p k : Nat} {b0 b1 b2 b3 : Byte} (hk : 4 ≤ k)
    (hp : k ≤ p) (h0 : f.getD (p - k) none = some b0) (h1 : f.getD (p - (k - 1)) none = some b1)
    (h2 : f.getD (p - (k - 2)) none = some b2) (h3 : f.getD (p - (k - 3)) none = some b3) :
    readFile f (p - k) 4 = .ok [b0, b1, b2, b3] := by
  rw [show p - (k - 1) = p - k + 1 by omega] at h1
  rw [show p - (k - 2) = p - k + 1 + 1 by omega] at h2
  rw [show p - (k - 3) = p - k + 1 + 1 + 1 by omega] at h3
  simp only [readFile, h0, h1, h2, h3]

/-! KXW. -/

/-- At a boundary the word before is transformed with RCON, and RCON advances (R123, R126). -/
theorem kxwWord_of_boundary {p : Nat} (prev : List Byte) {rcon : Option Byte} {r : Byte}
    (hp : p % 16 = 0) (h : rcon = some r) :
    kxwWord p prev rcon = .ok (boundaryWord prev r, some (nextRcon r)) := by
  rw [kxwWord, if_pos hp, readReg_eq_ok.2 h]

/-- Elsewhere the word before is taken as it is (R123). -/
theorem kxwWord_of_not_boundary {p : Nat} (prev : List Byte) (rcon : Option Byte)
    (hp : ¬ p % 16 = 0) : kxwWord p prev rcon = .ok (prev, rcon) := by
  rw [kxwWord, if_neg hp]

/-- The transformed word, byte by byte (R124 to R126). -/
theorem boundaryWord_bytes (a0 a1 a2 a3 r : Byte) :
    boundaryWord [a0, a1, a2, a3] r = [sbox a1 ^^^ r, sbox a2, sbox a3, sbox a0] := by
  simp [boundaryWord, subword, rotword, byteAt, xorBytes]

/-- KXW whose reads give values: the new word is stored, then the position advances (R123). -/
theorem execKxw_of_reads {s : State} {p : Nat} {prev back : List Byte}
    {wr : List Byte × Option Byte} (hkpos : s.kpos.toNat = p) (hp : kposOk p = true)
    (hprev : readFile s.rk (p - 4) 4 = .ok prev) (hwr : kxwWord p prev s.rcon = .ok wr)
    (hback : readFile s.rk (p - 16) 4 = .ok back) :
    execKxw s = kxwNext p { s with
      rk := writeFile s.rk p (xorBytes wr.1 back), regW := holding (xorBytes wr.1 back),
      rcon := wr.2 } := by
  simp only [execKxw, hkpos, hp, if_true, hprev, hwr, hback, attempt_ok]

/-- The next position after KXW, for every position it works at: the last one, 172, ends the
schedule (R87). -/
theorem kxwNext_of_kposOk {p n : Nat} {s : State} (hp : kposOk p = true)
    (hn : p = 172 → s.nblk = some n) :
    kxwNext p s = .next { s with
      rkv := if p = 172 then true else s.rkv, kpos := BitVec.ofNat 8 (p + 4),
      blk := if p = 172 then 0 else s.blk,
      ph := if p = 172 then (if 0 < n then Op.cbx else Op.fin) else s.ph } := by
  obtain ⟨-, hle, h4⟩ := kposOk_iff.1 hp
  refine kxwNext_eq_next.2 ?_
  by_cases hlast : p = 172
  · refine .inr ⟨by omega, n, hn hlast, ?_⟩
    simp [hlast]
  · refine .inl ⟨by omega, ?_⟩
    simp [hlast]

end Sys2Proof.Machine
end

section
/-! SUPPORT for the proofs. The key expansion of R121, and the states of the run that computes it:
each KXW is one turn of the expansion. -/

namespace Sys2Proof.Machine

/-! The expansion. -/

/-- A turn appends one word, which is KXW's new word, and gives KXW's next round constant. -/
theorem keyexpTurn_eq_kxwWord (bs : List Byte) (r : Byte) :
    ∃ w, kxwWord bs.length ((bs.drop (bs.length - 4)).take 4) (some r) =
        .ok (w, some (keyexpTurn bs r).2) ∧
      (keyexpTurn bs r).1 = bs ++ xorBytes w ((bs.drop (bs.length - 16)).take 4) ∧
      (16 ≤ bs.length → w.length = 4) := by
  unfold keyexpTurn
  dsimp only
  split
  · rename_i hp
    exact ⟨_, kxwWord_of_boundary _ hp rfl, rfl, fun _ => boundaryWord_length _ _⟩
  · rename_i hp
    exact ⟨_, kxwWord_of_not_boundary _ _ hp, rfl, fun _ => by simp; omega⟩

theorem keyexpTurn_length {bs : List Byte} (h : 16 ≤ bs.length) (r : Byte) :
    (keyexpTurn bs r).1.length = bs.length + 4 := by
  obtain ⟨w, -, hturn, hw⟩ := keyexpTurn_eq_kxwWord bs r
  simp [hturn, hw h]
  omega

theorem prefix_keyexpTurn (bs : List Byte) (r : Byte) : bs <+: (keyexpTurn bs r).1 := by
  obtain ⟨w, -, hturn, -⟩ := keyexpTurn_eq_kxwWord bs r
  rw [hturn]
  exact List.prefix_append _ _

theorem keyexpTurns_length {bs : List Byte} (h : 16 ≤ bs.length) (n : Nat) (r : Byte) :
    (keyexpTurns n bs r).length = bs.length + 4 * n := by
  induction n generalizing bs r with
  | zero => rfl
  | succ n ih =>
    have hlen := keyexpTurn_length h r
    rw [keyexpTurns, ih (by omega), hlen]
    omega

theorem prefix_keyexpTurns (n : Nat) (bs : List Byte) (r : Byte) : bs <+: keyexpTurns n bs r := by
  induction n generalizing bs r with
  | zero => exact List.prefix_rfl
  | succ n ih => exact (prefix_keyexpTurn bs r).trans (ih _ _)

/-- The schedule of a key has 176 bytes (R121). -/
theorem keyexp_length {key : List Byte} (h : key.length = 16) : (keyexp key).length = 176 := by
  rw [keyexp, keyexpTurns_length h.ge, h]

/-- The schedule of a key begins with the key (R121). -/
theorem keyexp_take {key : List Byte} (h : key.length = 16) : (keyexp key).take 16 = key := by
  rw [← h]
  exact (List.prefix_iff_eq_take.1 (prefix_keyexpTurns 40 key 0x01#8)).symm

/-- The round constant when the schedule has p bytes: it has advanced once for each boundary
16, 32, ... below p (R126). -/
def rconAt (p : Nat) : Byte := nextRcon^[(p - 1) / 16] 0x01#8

/-- A turn keeps the round constant that of the length reached. -/
theorem keyexpTurn_rconAt {bs : List Byte} (h16 : 16 ≤ bs.length) (h4 : bs.length % 4 = 0) :
    (keyexpTurn bs (rconAt bs.length)).2 = rconAt (bs.length + 4) := by
  unfold keyexpTurn rconAt
  dsimp only
  split
  · rw [show (bs.length + 4 - 1) / 16 = (bs.length - 1) / 16 + 1 by omega,
      Function.iterate_succ_apply']
  · rw [show (bs.length + 4 - 1) / 16 = (bs.length - 1) / 16 by omega]

/-- Turns that start with the round constant of the length go on with that of the length reached. -/
theorem keyexpTurns_succ_rconAt {bs bs' : List Byte} (h16 : 16 ≤ bs.length)
    (h4 : bs.length % 4 = 0) (hturn : (keyexpTurn bs (rconAt bs.length)).1 = bs') (m : Nat) :
    keyexpTurns (m + 1) bs (rconAt bs.length) = keyexpTurns m bs' (rconAt bs'.length) := by
  rw [keyexpTurns, keyexpTurn_rconAt h16 h4, ← keyexpTurn_length h16, hturn]

/-! The run. -/

/-- The state from s once bs is the schedule derived so far and w is in the rolling word: KXW is
next, at the position after bs. -/
def State.scheduled (s : State) (bs : List Byte) (w : ByteFile) : State :=
  { s with
    rkv := false, rk := writeFile s.rk 0 bs, regW := w, rcon := some (rconAt bs.length),
    ph := Op.kxw, kpos := BitVec.ofNat 8 bs.length }

/-- The state from s once the schedule is bs, all 176 bytes, in a call of n blocks (R87, R121). -/
def State.keyExpanded (s : State) (bs : List Byte) (n : Nat) : State :=
  { s with
    rk := holding bs, regW := holding (bs.drop 172), rcon := some 0x6C#8, rkv := true,
    kpos := 176#8, blk := 0, ph := if 0 < n then Op.cbx else Op.fin }

/-- KLD with a written KEY_ADDR whose 16 bytes exist completes and copies them (R122). -/
theorem execKld_of_keyAddr {s : State} {ka : Nat} (hka : s.keyAddr = some ka)
    (hexist : ka + 16 ≤ 2 ^ s.cfg.addrW) :
    execKld s = .next { s with
      rkv := false, rk := writeFile s.rk 0 (Memory.bytes s.mem ka 16), rcon := some 0x01#8,
      ph := Op.kxw, kpos := 16#8 } := by
  have haddr : s.readDesc .keyAddr = ka := readDesc_of_some hka
  exact execKld_eq_next.2 ⟨_, memRead_eq_ok.2 ⟨by rwa [haddr], rfl⟩, by rw [haddr]⟩

/-- The step of KLD begins the schedule with the key (R122). -/
theorem step_kld {s : State} {ka : Nat} (hph : s.ph = Op.kld) (hin : s.inputs = [])
    (henv : s.envFail = false) (hka : s.keyAddr = some ka)
    (hexist : ka + 16 ≤ 2 ^ s.cfg.addrW) :
    step s = .next (s.scheduled (Memory.bytes s.mem ka 16) s.regW) := by
  rw [step_eq_exec_of_quiet (i := .kld) hin henv hph (by decide) (by decide) (by decide), exec,
    execKld_of_keyAddr hka hexist, State.scheduled, Memory.bytes_length]
  rfl

/-- KXW stores the word of one turn of the expansion (R121, R123). -/
theorem execKxw_scheduled {s : State} {bs bs' : List Byte} (w : ByteFile)
    (hrk : s.rk.length = 176) (hp : kposOk bs.length = true)
    (hturn : (keyexpTurn bs (rconAt bs.length)).1 = bs') :
    execKxw (s.scheduled bs w) = kxwNext bs.length { s.scheduled bs w with
      rk := writeFile s.rk 0 bs', regW := holding (bs'.drop bs.length),
      rcon := some (rconAt bs'.length) } := by
  obtain ⟨h16, h172, h4⟩ := kposOk_iff.1 hp
  obtain ⟨x, hx, happend, -⟩ := keyexpTurn_eq_kxwWord bs (rconAt bs.length)
  have hkpos : (s.scheduled bs w).kpos.toNat = bs.length := by
    rw [State.scheduled, BitVec.toNat_ofNat, Nat.mod_eq_of_lt (by omega)]
  have hlen := keyexpTurn_length h16 (rconAt bs.length)
  rw [execKxw_of_reads hkpos hp (readFile_writeFile (by omega) (by omega)) hx
    (readFile_writeFile (by omega) (by omega)), keyexpTurn_rconAt h16 h4, ← hlen, hturn]
  rw [hturn] at happend
  simp only [happend, List.drop_left, writeFile_append, Nat.zero_add]
  rfl

/-- The step of KXW is a turn of the expansion. -/
theorem step_scheduled {s : State} {bs bs' : List Byte} (w : ByteFile) (hin : s.inputs = [])
    (henv : s.envFail = false) (hrk : s.rk.length = 176) (hp : kposOk bs.length = true)
    (hturn : (keyexpTurn bs (rconAt bs.length)).1 = bs') :
    step (s.scheduled bs w) = kxwNext bs.length { s.scheduled bs w with
      rk := writeFile s.rk 0 bs', regW := holding (bs'.drop bs.length),
      rcon := some (rconAt bs'.length) } := by
  rw [step_eq_exec_of_quiet (s := s.scheduled bs w) (i := .kxw) (op := Op.kxw) hin henv rfl
    (by decide) (by decide) (by decide), exec, execKxw_scheduled w hrk hp hturn]

/-- A turn before the last leaves KXW next, at the position after its word (R87). -/
theorem step_scheduled_before_last {s : State} {bs bs' : List Byte} (w : ByteFile)
    (hin : s.inputs = []) (henv : s.envFail = false) (hrk : s.rk.length = 176)
    (hp : kposOk bs.length = true) (hlt : bs.length < 172)
    (hturn : (keyexpTurn bs (rconAt bs.length)).1 = bs') :
    step (s.scheduled bs w) = .next (s.scheduled bs' (holding (bs'.drop bs.length))) := by
  have hlen : bs'.length = bs.length + 4 := hturn ▸ keyexpTurn_length (kposOk_iff.1 hp).1 _
  rw [step_scheduled w hin henv hrk hp hturn]
  refine kxwNext_eq_next.2 (.inl ⟨by omega, ?_⟩)
  rw [← hlen]
  rfl

/-- The last turn, at position 172, completes the schedule (R87, R123). -/
theorem step_scheduled_last {s : State} {bs bs' : List Byte} {n : Nat} (w : ByteFile)
    (hin : s.inputs = []) (henv : s.envFail = false) (hrk : s.rk.length = 176)
    (hn : s.nblk = some n) (hlast : bs.length = 172)
    (hturn : (keyexpTurn bs (rconAt bs.length)).1 = bs') :
    step (s.scheduled bs w) = .next (s.keyExpanded bs' n) := by
  have hlen : bs'.length = 176 := by
    rw [← hturn, keyexpTurn_length (by omega), hlast]
  have hrcon : rconAt 176 = 0x6C#8 := by decide
  rw [step_scheduled w hin henv hrk (kposOk_iff.2 (by omega)) hturn,
    writeFile_full (hlen.trans hrk.symm), hlen, hrcon, hlast]
  exact kxwNext_eq_next.2 (.inr ⟨by decide, n, hn, rfl⟩)

/-- Where m + 1 words are left to derive, as many steps complete the schedule (R121). -/
theorem run_scheduled {s : State} {bs : List Byte} {m n : Nat} (w : ByteFile)
    (hin : s.inputs = []) (henv : s.envFail = false) (hrk : s.rk.length = 176)
    (hn : s.nblk = some n) (h16 : 16 ≤ bs.length) (hm : bs.length + 4 * m = 172) :
    Host.Core.run Sys2Proof.core (m + 1) (s.scheduled bs w) =
      .next (s.keyExpanded (keyexpTurns (m + 1) bs (rconAt bs.length)) n) := by
  induction m generalizing bs w with
  | zero =>
    rw [run_succ_of_step (step_scheduled_last w hin henv hrk hn hm rfl)]
    rfl
  | succ m ih =>
    have hp : kposOk bs.length = true := kposOk_iff.2 (by omega)
    have hlen := keyexpTurn_length h16 (rconAt bs.length)
    rw [keyexpTurns_succ_rconAt h16 (by omega) rfl,
      run_succ_of_step (step_scheduled_before_last w hin henv hrk hp (by omega) rfl)]
    exact ih _ (by omega) (by omega)

end Sys2Proof.Machine
end

section
/-! The statements of the key scheduler (41_key_scheduler.md). -/

namespace Sys2Proof.Machine

/-- Settles O11: what KLD writes is the 16 key bytes, from index 0 of the store on. -/
theorem kldLoadsKey : Obligations.KldLoadsKey := by
  rintro s ka key hrk hka hexist rfl
  have hlen := Memory.bytes_length s.mem ka 16
  refine ⟨writeFile s.rk 0 (Memory.bytes s.mem ka 16), execKld_of_keyAddr hka hexist,
    by rw [writeFile_length, hrk], fun j hj => ?_, fun j hj => ?_⟩
  · have hget := writeFile_getD_eq_getElem? s.rk 0 (Memory.bytes s.mem ka 16) (j := j)
      (by omega) (by omega)
    rwa [Nat.zero_add] at hget
  · exact writeFile_getD_outside _ _ _ (by omega)

/-- Settles O12: the two words read, the boundary's transformation or none, and the store's bytes
after the write of the new word. -/
theorem kxwDerivesWord : Obligations.KxwDerivesWord := by
  intro s p n r a0 a1 a2 a3 b0 b1 b2 b3 hrk hkpos h16 h172 h4 ha0 ha1 ha2 ha3 hb0 hb1 hb2 hb3
    hrcon hnblk new
  have hp : kposOk p = true := kposOk_iff.2 ⟨h16, h172, h4⟩
  have hprev := readFile_four_back (k := 4) le_rfl (by omega) ha0 ha1 ha2 ha3
  have hback := readFile_four_back (k := 16) (by decide) h16 hb0 hb1 hb2 hb3
  have hnew : new.length = 4 := by
    unfold new
    split <;> rfl
  have hword : ∃ w, xorBytes w [b0, b1, b2, b3] = new ∧ kxwWord p [a0, a1, a2, a3] s.rcon =
      .ok (w, if p % 16 = 0 then some (gfmul r 0x02#8) else s.rcon) := by
    unfold new
    split
    · rename_i hbound
      exact ⟨_, by rw [boundaryWord_bytes]; rfl, kxwWord_of_boundary _ hbound (hrcon hbound)⟩
    · rename_i hbound
      exact ⟨_, rfl, kxwWord_of_not_boundary _ _ hbound⟩
  obtain ⟨w, hw, hwr⟩ := hword
  refine ⟨writeFile s.rk p new, ?_, by rw [writeFile_length, hrk], fun j hj => ?_,
    fun j hj => ?_⟩
  · rw [exec, execKxw_of_reads hkpos hp hprev hwr hback]
    dsimp only
    rw [hw]
    exact kxwNext_of_kposOk hp hnblk
  · exact writeFile_getD_eq_getElem? _ _ _ (by omega) (by omega)
  · exact writeFile_getD_outside _ _ _ (by omega)

/-- Settles O13: KLD's step, then one turn of the expansion for each of the forty steps of KXW. -/
theorem keyScheduleRun : Obligations.KeyScheduleRun := by
  rintro s ka n key hrk hph hin henv hka hexist rfl hn
  have hlen := Memory.bytes_length s.mem ka 16
  refine ⟨?_, keyexp_length hlen, keyexp_take hlen⟩
  rw [run_succ_of_step (step_kld hph hin henv hka hexist),
    run_scheduled (m := 39) s.regW hin henv hrk hn hlen.ge (by rw [hlen]), hlen]
  rfl

end Sys2Proof.Machine
end

section
/-! SUPPORT for the proofs. The round transform's micro-operations on an S that holds values, and the
bytes that ShiftRows and MixColumns give at a row and a column (42_round_transform.md). -/

namespace Sys2Proof.Machine

/-- SUB, SHR and MIX complete on an S that holds values (R150). -/
theorem transformS_of_holding (f : List Byte → List Byte) (p : Nibble) {s : State} {b : List Byte}
    (hlen : b.length = 16) (hS : s.regS = holding b) :
    transformS f p s = .next { s with regS := holding (f b), ph := p } :=
  transformS_eq_next.2 ⟨b, by rw [hS, ← hlen, readFile_holding], rfl⟩

/-- A read of register bytes that are, one by one, those of bs gives bs. -/
theorem readFile_of_getD_eq_getElem? {f : ByteFile} {i n : Nat} {bs : List Byte}
    (hlen : bs.length = n) (h : ∀ j < n, f.getD (i + j) none = bs[j]?) :
    readFile f i n = .ok bs :=
  readFile_eq_ok.2 ⟨hlen, fun j hj => by
    rw [h j (hlen ▸ hj), List.getElem?_eq_getElem hj]⟩

/-- The next position after ARK, field by field (R144). -/
theorem arkNext_eq (s : State) :
    arkNext s = { s with
      rnd := if s.rnd.toNat < 10 then s.rnd + 1#4 else s.rnd,
      ph := if s.rnd.toNat < 10 then Op.sub else Op.bst } := by
  unfold arkNext
  split <;> rfl

/-- ARK completes when RKV is 1 and S and the round key it names hold values (R144). -/
theorem execArk_of_holding {s : State} {k : Nibble} {b key : List Byte} (hk : k.toNat ≤ 10)
    (hrkv : s.rkv = true) (hlen : b.length = 16) (hS : s.regS = holding b)
    (hkey : readFile s.rk (16 * k.toNat) 16 = .ok key) :
    execArk k s = .next (arkNext { s with regS := holding (addRoundKey b key) }) :=
  execArk_eq_next.2 ⟨hk, hrkv, b, key, by rw [hS, ← hlen, readFile_holding], hkey, rfl⟩

theorem byteAt_of_getElem? {bs : List Byte} {j : Nat} {x : Byte} (h : bs[j]? = some x) :
    byteAt bs j = x := by
  rw [byteAt, List.getD, h, Option.getD_some]

/-- ShiftRows at row r, column c (R12, R142). -/
theorem shiftRows_getElem? {s : List Byte} (hlen : s.length = 16) {r c : Nat} (hr : r < 4)
    (hc : c < 4) : (shiftRows s)[r + 4 * c]? = s[r + 4 * ((c + r) % 4)]? := by
  have hrow : (r + 4 * c) % 4 = r := by omega
  have hcol : (r + 4 * c) / 4 = c := by omega
  have hout : r + 4 * c < 16 := by omega
  have hin : r + 4 * ((c + r) % 4) < s.length := by omega
  rw [shiftRows, List.getElem?_map, List.getElem?_range hout, Option.map_some, hrow, hcol,
    byteAt_eq_getElem hin, List.getElem?_eq_getElem hin]

/-- MixColumns at row r, column c (R12, R143). -/
theorem mixColumns_getElem? (s : List Byte) {r c : Nat} (hr : r < 4) (hc : c < 4) :
    (mixColumns s)[4 * c + r]? = some (mixByte s (4 * c) r) := by
  have hrow : (4 * c + r) % 4 = r := by omega
  have hcol : (4 * c + r) / 4 = c := by omega
  have hout : 4 * c + r < 16 := by omega
  rw [mixColumns, List.getElem?_map, List.getElem?_range hout, Option.map_some, hrow, hcol]

end Sys2Proof.Machine
end

section
/-! The statements of the round transform (42_round_transform.md). -/

namespace Sys2Proof.Machine

/-- Settles O16: SUB is the byte-by-byte substitution of the S it reads. -/
theorem subSubstitutesBytes : Obligations.SubSubstitutesBytes :=
  fun _ _ hlen hS => transformS_of_holding subBytes Op.shr hlen hS

/-- Settles O17: the bytes SHR writes are those of ShiftRows, read at row r and column c. -/
theorem shrRotatesRows : Obligations.ShrRotatesRows := by
  intro s b hlen hS
  exact ⟨shiftRows b, transformS_of_holding shiftRows _ hlen hS, shiftRows_length b,
    fun r hr c hc => shiftRows_getElem? hlen hr hc⟩

/-- Settles O18: the bytes MIX writes are those of MixColumns, each the combination of the four
bytes of its column. -/
theorem mixCombinesColumns : Obligations.MixCombinesColumns := by
  intro s b hlen hS
  refine ⟨mixColumns b, transformS_of_holding mixColumns Op.ark hlen hS, mixColumns_length b,
    fun r hr c hc x0 x1 x2 x3 h0 h1 h2 h3 => ?_⟩
  rw [mixColumns_getElem? b hr hc, mixByte, byteAt_of_getElem? h0, byteAt_of_getElem? h1,
    byteAt_of_getElem? h2, byteAt_of_getElem? h3]

/-- Settles O19: with RKV 1 the read of RK{k} gives the round key that ARK adds; with RKV 0 ARK
stops before it reads. -/
theorem arkAddsRoundKey : Obligations.ArkAddsRoundKey := by
  intro s k hk
  refine ⟨fun b key hrkv hlen hS hkeyLen hkey => ?_, execArk_of_not_rkv hk⟩
  rw [exec, execArk_of_holding hk hrkv hlen hS (readFile_of_getD_eq_getElem? hkeyLen hkey),
    arkNext_eq]
  rfl

end Sys2Proof.Machine
end

section
/-! SUPPORT for the proofs. Runs of the engine told by the words they issue (R86), and the run of
ENCBLK: its whitening, its rounds and its final round (R145, R146, R160). -/

namespace Sys2Proof.Machine

/-! Runs and the words they issue. -/

/-- From s the machine issues the words ws, one a step, and stands at t after them. -/
inductive Issues : State → List Byte → State → Prop where
  | nil (s : State) : Issues s [] s
  | cons {s u t : State} {w : Byte} {ws : List Byte} (word : s.issued = w)
      (first : step s = .next u) (rest : Issues u ws t) : Issues s (w :: ws) t

theorem Issues.append {s u t : State} {ws vs : List Byte} (h : Issues s ws u)
    (h' : Issues u vs t) : Issues s (ws ++ vs) t := by
  induction h with
  | nil _ => exact h'
  | cons word first _ ih => exact .cons word first (ih h')

/-- The run of as many steps as there are words ends where the words lead. -/
theorem Issues.run_eq {s t : State} {ws : List Byte} (h : Issues s ws t) :
    Host.Core.run Sys2Proof.core ws.length s = .next t := by
  induction h with
  | nil _ => rfl
  | cons _ first _ ih => exact (run_succ_of_step first _).trans ih

/-- The state that j steps lead to issues word j. -/
theorem Issues.getElem?_eq {s t : State} {ws : List Byte} (h : Issues s ws t) {j : Nat}
    (hj : j < ws.length) :
    ∃ u, Host.Core.run Sys2Proof.core j s = .next u ∧ ws[j]? = some u.issued := by
  induction h generalizing j with
  | nil _ => exact absurd hj (Nat.not_lt_zero j)
  | @cons s _ _ _ _ word first _ ih =>
    cases j with
    | zero => exact ⟨s, rfl, congrArg some word.symm⟩
    | succ j =>
      obtain ⟨u, hrun, hword⟩ := ih (Nat.lt_of_succ_lt_succ hj)
      exact ⟨u, (run_succ_of_step first j).trans hrun, hword⟩

/-! The rounds of the block cipher. -/

/-- The block after the whitening and n full rounds (R160). -/
def afterRounds (b rk : List Byte) (n : Nat) : List Byte :=
  (List.range n).foldl (fun t k => fullRound t (roundKey rk (k + 1)))
    (addRoundKey b (roundKey rk 0))

/-- The words of the whitening and n full rounds (R160). -/
def roundWords (n : Nat) : List Byte :=
  encode (.ark 0#4) :: (List.range n).flatMap fun k =>
    [encode .sub, encode .shr, encode .mix, encode (.ark (BitVec.ofNat 4 (k + 1)))]

theorem afterRounds_succ (b rk : List Byte) (n : Nat) :
    afterRounds b rk (n + 1) = fullRound (afterRounds b rk n) (roundKey rk (n + 1)) := by
  simp [afterRounds, List.range_succ]

theorem roundWords_succ (n : Nat) :
    roundWords (n + 1) = roundWords n ++
      [encode .sub, encode .shr, encode .mix, encode (.ark (BitVec.ofNat 4 (n + 1)))] := by
  simp [roundWords, List.range_succ]

theorem encblock_eq_finalRound (b rk : List Byte) :
    encblock b rk = finalRound (afterRounds b rk 9) (roundKey rk 10) := rfl

theorem encblkWords_eq_append :
    encblkWords = roundWords 9 ++ [encode .sub, encode .shr, encode (.ark 10#4)] := by decide

theorem afterRounds_length {b rk : List Byte} (hb : b.length = 16) (hrk : rk.length = 176)
    {n : Nat} (hn : n ≤ 9) : (afterRounds b rk n).length = 16 := by
  cases n with
  | zero => exact addRoundKey_length hb (roundKey_length hrk (by decide))
  | succ n =>
    rw [afterRounds_succ]
    exact addRoundKey_length (mixColumns_length _) (roundKey_length hrk (by omega))

/-- RK{k} as the engine reads it from a complete store (R12). -/
theorem readFile_roundKey {rk : List Byte} {k : Nat} (hrk : rk.length = 176) (hk : k ≤ 10) :
    readFile (holding rk) (16 * k) 16 = .ok (roundKey rk k) := by
  refine readFile_of_getD_eq_getElem? (roundKey_length hrk hk) fun j hj => ?_
  have hin : 16 * k + j < rk.length := by omega
  rw [holding_getD hin, roundKey, List.getElem?_take_of_lt hj, List.getElem?_drop,
    List.getElem?_eq_getElem hin]

/-! The run of ENCBLK. -/

/-- The state from s inside ENCBLK: b in S, the sequencer at phase ph of round k. -/
def State.inBlock (s : State) (b : List Byte) (ph k : Nibble) : State :=
  { s with regS := holding b, ph := ph, rnd := k }

theorem State.inBlock_self {s : State} {b : List Byte} {ph k : Nibble} (hS : s.regS = holding b)
    (hph : s.ph = ph) (hk : s.rnd = k) : s.inBlock b ph k = s := by
  rw [State.inBlock, ← hS, ← hph, ← hk]

section
variable {s : State} (hin : s.inputs = []) (henv : s.envFail = false)
include hin henv

/-- Inside ENCBLK a step performs the micro-operation whose word the position issues (R86). -/
theorem step_inBlock {b : List Byte} {ph k : Nibble} {i : Instr} (hi : i ≠ .encrypt ∧ i.wf = true)
    (hword : (s.inBlock b ph k).issued = encode i) :
    step (s.inBlock b ph k) = exec i (s.inBlock b ph k) := by
  have hidle : ph ≠ Op.idle := fun h => hi.1 <| opField_encode_eq_idle.1 <|
    hword ▸ (opField_microWord ph _).trans h
  have hnoEvent : ((s.inBlock b ph k).envFail && (s.inBlock b ph k).envFailWindow) = false :=
    Bool.and_eq_false_imp.2 fun h => absurd h (Bool.eq_false_iff.1 henv)
  rw [step_eq_exec (s := s.inBlock b ph k) (.inl hin) hidle hnoEvent
    (hword ▸ decodeMicro_encode_eq_ok.2 hi), State.popped_of_nil (s := s.inBlock b ph k) hin]

/-- The step of MIX (R143). -/
theorem step_inBlock_mix {b : List Byte} (hb : b.length = 16) (k : Nibble) :
    step (s.inBlock b Op.mix k) = .next (s.inBlock (mixColumns b) Op.ark k) :=
  (step_inBlock hin henv (i := .mix) (by decide) rfl).trans
    (transformS_of_holding mixColumns Op.ark hb rfl)

/-- SUB and SHR, which begin every round after the whitening, the final one too (R145, R146). -/
theorem issues_sub_shr {b : List Byte} (hb : b.length = 16) (k : Nibble) :
    Issues (s.inBlock b Op.sub k) [encode .sub, encode .shr]
      (s.inBlock (shiftRows (subBytes b)) (if k.toNat < 10 then Op.mix else Op.ark) k) := by
  have hsub : step (s.inBlock b Op.sub k) = .next (s.inBlock (subBytes b) Op.shr k) :=
    (step_inBlock hin henv (i := .sub) (by decide) rfl).trans
      (transformS_of_holding subBytes Op.shr hb rfl)
  have hshr : step (s.inBlock (subBytes b) Op.shr k) =
      .next (s.inBlock (shiftRows (subBytes b)) (if k.toNat < 10 then Op.mix else Op.ark) k) :=
    (step_inBlock hin henv (i := .shr) (by decide) rfl).trans
      (transformS_of_holding shiftRows _ ((subBytes_length b).trans hb) rfl)
  exact .cons rfl hsub (.cons rfl hshr (.nil _))

variable {rk : List Byte} (hrkv : s.rkv = true) (hrk : rk.length = 176) (hRK : s.rk = holding rk)
include hrkv hrk hRK

/-- The step of ARK k under the schedule rk (R144). -/
theorem step_inBlock_ark {b : List Byte} (hb : b.length = 16) {k : Nibble} (hk : k.toNat ≤ 10) :
    step (s.inBlock b Op.ark k) =
      .next (s.inBlock (addRoundKey b (roundKey rk k.toNat))
        (if k.toNat < 10 then Op.sub else Op.bst) (if k.toNat < 10 then k + 1#4 else k)) := by
  have hkey : readFile s.rk (16 * k.toNat) 16 = .ok (roundKey rk k.toNat) := by
    rw [hRK, readFile_roundKey hrk hk]
  rw [step_inBlock hin henv (ph := Op.ark) (i := .ark k) ⟨nofun, decide_eq_true hk⟩ rfl, exec,
    execArk_of_holding (s := s.inBlock b Op.ark k) hk hrkv hb rfl hkey, arkNext_eq]
  rfl

/-- A full round (R145). -/
theorem issues_fullRound {b : List Byte} (hb : b.length = 16) {k : Nibble} (hk : k.toNat < 10) :
    Issues (s.inBlock b Op.sub k) [encode .sub, encode .shr, encode .mix, encode (.ark k)]
      (s.inBlock (fullRound b (roundKey rk k.toNat)) Op.sub (k + 1#4)) := by
  have hbegin := issues_sub_shr hin henv hb k
  have hmix := step_inBlock_mix hin henv (shiftRows_length (subBytes b)) k
  have hark := step_inBlock_ark hin henv hrkv hrk hRK
    (mixColumns_length (shiftRows (subBytes b))) hk.le
  rw [if_pos hk] at hbegin
  rw [if_pos hk, if_pos hk] at hark
  exact hbegin.append (.cons rfl hmix (.cons rfl hark (.nil _)))

/-- The final round (R146). -/
theorem issues_finalRound {b : List Byte} (hb : b.length = 16) :
    Issues (s.inBlock b Op.sub 10#4) [encode .sub, encode .shr, encode (.ark 10#4)]
      (s.inBlock (finalRound b (roundKey rk 10)) Op.bst 10#4) :=
  (issues_sub_shr hin henv hb 10#4).append
    (.cons rfl (step_inBlock_ark hin henv hrkv hrk hRK (shiftRows_length (subBytes b)) le_rfl)
      (.nil _))

/-- The whitening and n full rounds (R160). -/
theorem issues_roundWords {b : List Byte} (hb : b.length = 16) {n : Nat} (hn : n ≤ 9) :
    Issues (s.inBlock b Op.ark 0#4) (roundWords n)
      (s.inBlock (afterRounds b rk n) Op.sub (BitVec.ofNat 4 (n + 1))) := by
  induction n with
  | zero =>
    exact .cons rfl (step_inBlock_ark hin henv hrkv hrk hRK hb (Nat.zero_le 10)) (.nil _)
  | succ n ih =>
    have hk : (BitVec.ofNat 4 (n + 1)).toNat = n + 1 :=
      (BitVec.toNat_ofNat _ _).trans (Nat.mod_eq_of_lt (by omega))
    have hlen : (afterRounds b rk n).length = 16 := afterRounds_length hb hrk (by omega)
    have hround := issues_fullRound hin henv hrkv hrk hRK hlen
      (k := BitVec.ofNat 4 (n + 1)) (by omega)
    rw [hk, ← afterRounds_succ, ← BitVec.ofNat_add] at hround
    rw [roundWords_succ]
    exact (ih (by omega)).append hround

/-- ENCBLK is encblock, and its words are those of R160. -/
theorem issues_encblkWords {b : List Byte} (hb : b.length = 16) :
    Issues (s.inBlock b Op.ark 0#4) encblkWords (s.inBlock (encblock b rk) Op.bst 10#4) := by
  rw [encblkWords_eq_append, encblock_eq_finalRound]
  exact (issues_roundWords hin henv hrkv hrk hRK hb le_rfl).append
    (issues_finalRound hin henv hrkv hrk hRK (afterRounds_length hb hrk le_rfl))

end

end Sys2Proof.Machine
end

section
/-! The statement of the block cipher (43_block_cipher.md). -/

namespace Sys2Proof.Machine

/-- Settles O21: the whitening, nine full rounds by induction, then the final round, each as the
words it issues and the block it leaves in S. -/
theorem encblkRun : Obligations.EncblkRun := by
  intro s b rk hph hrnd hrkv hin henv hb hS hrk hRK
  have hrun := issues_encblkWords hin henv hrkv hrk hRK hb
  rw [State.inBlock_self hS hph hrnd] at hrun
  exact ⟨hrun.run_eq, fun _ hj => hrun.getElem?_eq hj⟩

end Sys2Proof.Machine
end

section
/-! SUPPORT for the proofs. ENCRYPT and the controller's CHK, CBX, BST and FIN, each told by what
its descriptor registers hold (R171 to R173, R176, R177). -/

namespace Sys2Proof.Machine

/-! ENCRYPT. -/

/-- ENCRYPT in a running call is refused (R243). -/
theorem execEncrypt_of_busy {s : State} (h : s.busy = true) :
    execEncrypt s = .refused .busyViolation := by
  rw [execEncrypt, if_pos h]

/-- ENCRYPT with a descriptor register unwritten is refused (R42). -/
theorem execEncrypt_of_desc_none {s : State} {d : Desc} (hb : s.busy = false)
    (hd : s.desc d = none) : execEncrypt s = .refused .descriptorUnwritten := by
  have hwritten : ¬ s.descWritten = true := fun h => by
    simpa [hd] using s.descWritten_iff.1 h d
  rw [execEncrypt, hb, if_neg Bool.false_ne_true, if_neg hwritten]

/-! CHK. -/

/-- The model's test for separate regions is R56's, said address by address. -/
theorem disjoint_iff_separate {a la b lb : Nat} :
    disjoint a la b lb = true ↔ Separate a la b lb := by
  rw [disjoint_iff]
  constructor
  · intro h x hx
    omega
  · intro h
    -- Regions that overlap share the later of their two first addresses.
    have ha := h a
    have hb := h b
    omega

/-- The launch check of CHK is R56's premises 1 and 2. -/
theorem buffersOk_iff_launchPremises {c : Config} {pt n key iv ct : Nat} :
    buffersOk c pt n key iv ct = true ↔ LaunchPremises c pt n key iv ct := by
  simp only [buffersOk_iff, LaunchPremises, disjoint_iff_separate, and_assoc]

/-- CHK on a written descriptor: the length, then the key and IV lengths, then the launch premises
(R176, R205). -/
theorem execChk_of_desc {s : State} {pt n key kl iv il ct : Nat} (hpt : s.ptAddr = some pt)
    (hn : s.ptLen = some n) (hkey : s.keyAddr = some key) (hkl : s.keyLen = some kl)
    (hiv : s.ivAddr = some iv) (hil : s.ivLen = some il) (hct : s.ctAddr = some ct) :
    execChk s =
      if n % 16 ≠ 0 then .next (s.raise Err.invalidLength)
      else if kl ≠ 16 ∨ il ≠ 16 then .next (s.raise Err.invalidKeyOrIVSize)
      else if buffersOk s.cfg pt n key iv ct then
        .next { s with nblk := some (n / 16), ph := Op.kld }
      else .refused .launchPremise := by
  simp only [execChk, chkPass, readDesc_of_some (d := .ptAddr) hpt,
    readDesc_of_some (d := .ptLen) hn, readDesc_of_some (d := .keyAddr) hkey,
    readDesc_of_some (d := .keyLen) hkl, readDesc_of_some (d := .ivAddr) hiv,
    readDesc_of_some (d := .ivLen) hil, readDesc_of_some (d := .ctAddr) hct]

/-! CBX. -/

/-- The chain input of block i, where its register is written and its addresses exist (R172). -/
theorem readChain_of_desc {s : State} {i base : Nat}
    (hbase : (if i = 0 then s.ivAddr else s.ctAddr) = some base)
    (hexist : (if i = 0 then base else base + 16 * (i - 1)) + 16 ≤ 2 ^ s.cfg.addrW) :
    readChain i s =
      .ok (Memory.bytes s.mem (if i = 0 then base else base + 16 * (i - 1)) 16) := by
  refine readChain_eq_ok.2 ?_
  by_cases hi : i = 0
  · simp only [if_pos hi] at hbase hexist ⊢
    rw [readDesc_of_some (d := .ivAddr) hbase]
    exact .inl ⟨hi, memRead_eq_ok.2 ⟨hexist, rfl⟩⟩
  · simp only [if_neg hi] at hbase hexist ⊢
    rw [readDesc_of_some (d := .ctAddr) hbase]
    exact .inr ⟨hi, memRead_eq_ok.2 ⟨hexist, rfl⟩⟩

/-! FIN. -/

theorem errPastChk_iff {s : State} : s.errPastChk = true ↔ s.err = 0#4 ∨ s.err = 3#4 := by
  simp [State.errPastChk]

/-- The state in which FIN leaves the engine, with memory and draws as they stand (R40, R177). -/
def State.ended (s : State) : State := s.discard.endFlags.goIdle

@[simp] theorem State.ended_ph (s : State) : s.ended.ph = Op.idle := rfl

/-- A call that ends without an error ends with STATUS 0x02 (R35, R177). -/
theorem State.ended_statusWord {s : State} (h : s.err = 0#4) : s.ended.statusWord = 0x02#8 := by
  simp [State.statusWord, State.ended, h]

/-- Draws before the end change memory and the draw counter only. -/
theorem State.spoil_ended (s : State) (a n : Nat) :
    (s.spoil a n).ended = { s.ended with
      mem := (s.spoil a n).ended.mem, draws := (s.spoil a n).ended.draws } := rfl

/-- FIN of a call past CHK takes the scratch licence (R55, R177). -/
theorem execFin_of_errPastChk {s : State} {ct n : Nat} (herr : s.errPastChk = true)
    (hct : s.ctAddr = some ct) (hn : s.ptLen = some n) (hexist : ct + n + 176 ≤ 2 ^ s.cfg.addrW) :
    execFin s = .next (s.spoil (ct + n) 176).ended := by
  have hctRead : s.readDesc .ctAddr = ct := readDesc_of_some hct
  have hnRead : s.readDesc .ptLen = n := readDesc_of_some hn
  refine execFin_eq_next.2 ⟨_, finScratch_eq_ok.2 (.inl ⟨herr, ?_, rfl⟩), ?_⟩
  · rwa [hctRead, hnRead]
  · rw [hctRead, hnRead, State.ended]

/-- FIN of a rejected call leaves memory alone (R177, R207). -/
theorem execFin_of_not_errPastChk {s : State} (herr : s.errPastChk = false) :
    execFin s = .next s.ended :=
  execFin_eq_next.2 ⟨s, finScratch_eq_ok.2 (.inr ⟨herr, rfl⟩), rfl⟩

/-- FIN's draws change the scratch region only. -/
theorem unchangedOutside_spoil_ended (s : State) (a n : Nat) :
    UnchangedOutside s (s.spoil a n).ended a n := fun _ h => spoil_read_outside s a n h

end Sys2Proof.Machine
end

section
/-! SUPPORT for the proofs. The words of a call outside its blocks: CHK, the key schedule and FIN
(R86, R179). -/

namespace Sys2Proof.Machine

/-- The word of a phase other than ARK is its op code with k = 0 (R82, R85). -/
theorem issued_of_ph {s : State} {op : Nibble} (hph : s.ph = op) (hark : op ≠ Op.ark) :
    s.issued = microWord op 0#4 := by
  rw [State.issued, hph, if_neg hark]

/-- Where m + 1 words are left to derive, as many KXW complete the schedule (R86, R121). -/
theorem issues_scheduled {s : State} {bs : List Byte} {m n : Nat} (w : ByteFile)
    (hin : s.inputs = []) (henv : s.envFail = false) (hrk : s.rk.length = 176)
    (hn : s.nblk = some n) (h16 : 16 ≤ bs.length) (hm : bs.length + 4 * m = 172) :
    Issues (s.scheduled bs w) (List.replicate (m + 1) (encode .kxw))
      (s.keyExpanded (keyexpTurns (m + 1) bs (rconAt bs.length)) n) := by
  induction m generalizing bs w with
  | zero => exact .cons rfl (step_scheduled_last w hin henv hrk hn hm rfl) (.nil _)
  | succ m ih =>
    have hp : kposOk bs.length = true := kposOk_iff.2 (by omega)
    have hlen := keyexpTurn_length h16 (rconAt bs.length)
    rw [keyexpTurns_succ_rconAt h16 (by omega) rfl]
    exact .cons rfl (step_scheduled_before_last w hin henv hrk hp (by omega) rfl)
      (ih _ (by omega) (by omega))

/-- KLD and the forty KXW that follow derive the schedule of the key in memory (R86, R121). -/
theorem issues_keySchedule {s : State} {ka n : Nat} (hrk : s.rk.length = 176) (hph : s.ph = Op.kld)
    (hin : s.inputs = []) (henv : s.envFail = false) (hka : s.keyAddr = some ka)
    (hexist : ka + 16 ≤ 2 ^ s.cfg.addrW) (hn : s.nblk = some n) :
    Issues s (encode .kld :: List.replicate 40 (encode .kxw))
      (s.keyExpanded (keyexp (Memory.bytes s.mem ka 16)) n) := by
  have hlen := Memory.bytes_length s.mem ka 16
  have hkxw := issues_scheduled (m := 39) s.regW hin henv hrk hn hlen.ge (by rw [hlen])
  rw [hlen] at hkxw
  exact .cons (issued_of_ph hph (by decide)) (step_kld hph hin henv hka hexist) hkxw

/-- The state from s after CHK has latched the block count of a length n (R31, R176). -/
def State.latched (s : State) (n : Nat) : State := { s with nblk := some (n / 16), ph := Op.kld }

/-- The step of CHK on a call that is ready: it passes (R176). -/
theorem step_chk {s : State} {pt n key iv ct : Nat} {kb ivb : List Byte} {ps : List (List Byte)}
    (h : CallReady s pt n key iv ct kb ivb ps) : step s = .next (s.latched n) := by
  rw [step_eq_exec_of_quiet (i := .chk) h.no_move h.no_envFail h.at_chk (by decide) (by decide)
    (by decide), exec, execChk_of_desc h.ptAddr h.ptLen h.keyAddr h.keyLen h.ivAddr h.ivLen
    h.ctAddr, if_neg (not_not.2 h.whole_blocks), if_neg (by decide),
    if_pos (buffersOk_iff_launchPremises.2 h.premises), State.latched]

/-- A call that is ready issues CHK, KLD and forty KXW, which derive its key's schedule (R86). -/
theorem issues_chk_keySchedule {s : State} {pt n key iv ct : Nat} {kb ivb : List Byte}
    {ps : List (List Byte)} (hrk : s.rk.length = 176)
    (h : CallReady s pt n key iv ct kb ivb ps) :
    Issues s (encode .chk :: encode .kld :: List.replicate 40 (encode .kxw))
      ((s.latched n).keyExpanded (keyexp kb) (n / 16)) := by
  obtain ⟨-, -, hkeyExist, -⟩ := h.premises.1
  have hkeys := issues_keySchedule (s := s.latched n) hrk rfl h.no_move h.no_envFail h.keyAddr
    hkeyExist rfl
  rw [show Memory.bytes (s.latched n).mem key 16 = kb from h.key_bytes] at hkeys
  exact .cons (issued_of_ph h.at_chk (by decide)) (step_chk h) hkeys

/-- The step of FIN in a call past CHK (R177). -/
theorem step_fin {s : State} {ct n : Nat} (hph : s.ph = Op.fin) (hin : s.inputs = [])
    (henv : s.envFail = false) (herr : s.errPastChk = true) (hct : s.ctAddr = some ct)
    (hn : s.ptLen = some n) (hexist : ct + n + 176 ≤ 2 ^ s.cfg.addrW) :
    step s = .next (s.spoil (ct + n) 176).ended := by
  rw [step_eq_exec_of_quiet (i := .fin) hin henv hph (by decide) (by decide) (by decide), exec,
    execFin_of_errPastChk herr hct hn hexist]

end Sys2Proof.Machine
end

section
/-! The statements of the CBC controller (44_cbc_controller.md). -/

namespace Sys2Proof.Machine

/-- Settles O25: idle, ENCRYPT starts the call exactly when every descriptor register is written. -/
theorem encryptStartsCall : Obligations.EncryptStartsCall := by
  refine fun s => ⟨fun hb hd => ?_, execEncrypt_of_busy, fun hb ⟨_, hd⟩ => ?_⟩
  · exact execEncrypt_eq_next.2 ⟨hb, s.descWritten_iff.2 hd, rfl⟩
  · exact execEncrypt_of_desc_none hb hd

/-- Settles O26: CHK's checks in their order, its launch check read as R56's premises. -/
theorem chkValidates : Obligations.ChkValidates := by
  intro s pt n key kl iv il ct hpt hn hkey hkl hiv hil hct
  have hchk : exec .chk s = _ := execChk_of_desc hpt hn hkey hkl hiv hil hct
  rw [hchk, ← buffersOk_iff_launchPremises]
  refine ⟨fun hlen => ?_, fun hlen hsize => ?_, fun hlen hk hi hok => ?_, fun hlen hk hi hok => ?_⟩
  · rw [if_pos hlen]
    rfl
  · rw [if_neg (not_not.2 hlen), if_pos hsize]
    rfl
  · rw [if_neg (not_not.2 hlen), if_neg (by simp [hk, hi]), if_pos hok]
  · rw [if_neg (not_not.2 hlen), if_neg (by simp [hk, hi]), if_neg hok]

/-- Settles O27: with RKV 1 both of CBX's reads succeed; with RKV 0 it stops before them. -/
theorem cbxChainsBlock : Obligations.CbxChainsBlock := by
  refine fun s => ⟨?_, execCbx_of_not_rkv⟩
  rintro pt base p c hrkv hpt hptExist rfl hbase hchainExist rfl
  have hptRead : s.readDesc .ptAddr = pt := readDesc_of_some hpt
  refine execCbx_eq_next.2 ⟨hrkv, _, _, memRead_eq_ok.2 ⟨?_, rfl⟩,
    readChain_of_desc hbase hchainExist, ?_⟩
  · rwa [hptRead]
  · rw [hptRead]
    rfl

/-- Settles O28: BST is one write of the 16 bytes of S at the address of block BLK. -/
theorem bstStoresBlock : Obligations.BstStoresBlock := by
  intro s ct n b hct hlen hS hn hexist
  have haddr : blockAddr (s.readDesc .ctAddr) s.blk = ct + 16 * s.blk := by
    rw [readDesc_of_some (d := .ctAddr) hct, blockAddr]
  have hread : readFile s.regS 0 16 = .ok b := by
    rw [hS, ← hlen]
    exact readFile_holding b
  refine ⟨_, execBst_eq_next.2 ⟨b, n, hread, hn, by rwa [haddr], rfl⟩, rfl,
    fun j hj => ?_, fun x hx => ?_⟩
  · have hb : j < b.length := by omega
    rw [haddr, Memory.byte_writeSeq_inside _ _ _ hb, List.getElem?_eq_getElem hb]
  · rw [haddr, Memory.read_writeSeq_outside _ _ _ (by rwa [hlen])]

/-- Settles O29: FIN discards and ends in both cases, and draws into the scratch region when the
call got past CHK. -/
theorem finEndsCall : Obligations.FinEndsCall := by
  refine fun s => ⟨fun ct n herr hct hn hexist => ?_, fun h0 h3 => ?_⟩
  · exact ⟨_, execFin_of_errPastChk (errPastChk_iff.2 herr) hct hn hexist, s.spoil_ended _ _,
      unchangedOutside_spoil_ended s _ _⟩
  · refine execFin_of_not_errPastChk (Bool.eq_false_iff.2 fun h => ?_)
    exact (errPastChk_iff.1 h).elim h0 h3

/-- Settles O36: CHK and the key schedule as in any call, and with no block FIN follows at once. -/
theorem zeroLengthCallEnds : Obligations.ZeroLengthCallEnds := by
  intro s pt key iv ct hinv hph hin henv hpt hlen hkey hkl hiv hil hct hpremises
  have hready : CallReady s pt 0 key iv ct (Memory.bytes s.mem key 16) (Memory.bytes s.mem iv 16)
      [] :=
    ⟨hph, hin, henv, hpt, hlen, hkey, hkl, hiv, hil, hct, rfl, hpremises, rfl, rfl, rfl,
      fun i hi => absurd hi i.not_lt_zero⟩
  have herr : s.err = 0#4 := hinv.consistent.err_zero (.inl (by rw [hph]; decide))
  have hkeys := issues_chk_keySchedule hinv.shape.rk_len hready
  -- Nothing below depends on the schedule derived.
  generalize keyexp (Memory.bytes s.mem key 16) = bs at hkeys
  obtain ⟨-, hctExist, -⟩ := hpremises.1
  have hfinPh : ((s.latched 0).keyExpanded bs 0).ph = Op.fin := rfl
  have hfin := step_fin hfinPh hin henv (errPastChk_iff.2 (.inl herr)) hct hlen hctExist
  rw [Nat.add_zero] at hfin
  have hcall := hkeys.append (.cons (issued_of_ph hfinPh (by decide)) hfin (.nil _))
  exact ⟨_, hcall.run_eq, State.ended_statusWord herr, State.ended_ph _,
    unchangedOutside_spoil_ended _ ct 176, fun j hj => hcall.getElem?_eq hj⟩

end Sys2Proof.Machine
end

section
/-! SUPPORT for the proofs. The errors CHK raises, and the call they end (R201, R202, R205 to R207).
-/

namespace Sys2Proof.Machine

/-! CHK that raises. -/

/-- A CHK that ends with an error where none was latched has raised it and done no more (R206). -/
theorem execChk_eq_raise_of_err {s t : State} (hs : s.err = 0#4) (h : execChk s = .next t)
    (ht : t.err ≠ 0#4) : t = s.raise t.err := by
  obtain ⟨-, rfl⟩ | ⟨-, -, rfl⟩ | ⟨-, -, -, -, rfl⟩ := execChk_eq_next.1 h
  · rfl
  · rfl
  · exact absurd hs ht

/-- The code of an invalid descriptor with plaintext length n: the length comes first (R205). -/
def rejectCode (n : Nat) : Nibble :=
  if n % 16 ≠ 0 then Err.invalidLength else Err.invalidKeyOrIVSize

/-- CHK on an invalid descriptor raises its code; it looks at no address (R176, R205). -/
theorem execChk_of_invalid {s : State} {n kl il : Nat} (hn : s.ptLen = some n)
    (hkl : s.keyLen = some kl) (hil : s.ivLen = some il)
    (hbad : n % 16 ≠ 0 ∨ kl ≠ 16 ∨ il ≠ 16) : execChk s = .next (s.raise (rejectCode n)) := by
  have hnRead : s.readDesc .ptLen = n := readDesc_of_some hn
  have hklRead : s.readDesc .keyLen = kl := readDesc_of_some hkl
  have hilRead : s.readDesc .ivLen = il := readDesc_of_some hil
  rw [execChk_eq_next, hnRead, hklRead, hilRead, rejectCode]
  by_cases hlen : n % 16 ≠ 0
  · exact .inl ⟨hlen, by rw [if_pos hlen]⟩
  · exact .inr (.inl ⟨not_not.1 hlen, hbad.resolve_left hlen, by rw [if_neg hlen]⟩)

/-! FIN after a raise. -/

/-- FIN takes no scratch licence after the code of an invalid descriptor (R55, R177). -/
theorem errPastChk_raise_rejectCode (s : State) (n : Nat) :
    (s.raise (rejectCode n)).errPastChk = false := by
  unfold rejectCode
  split <;> rfl

/-- STATUS after FIN: DONE alone, beside the error code (R35, R177). -/
theorem State.ended_statusWord_eq (s : State) : s.ended.statusWord = s.err ++ 0x2#4 := by
  simp [State.statusWord, State.ended]

/-! The two steps of a rejected call. -/

/-- With no host move due, a step in a phase outside KLD .. BST performs the phase's own operation,
whatever the level of ENV_FAIL (R203, R210). -/
theorem step_eq_exec_outside_window {s : State} {i : Instr} {op : Nibble} (hin : s.inputs = [])
    (hph : s.ph = op) (hidle : op ≠ Op.idle) (hwindow : ¬ (0x2 ≤ op.toNat ∧ op.toNat ≤ 0x9))
    (hi : decodeMicro (microWord op 0#4) = .ok i) : step s = exec i s := by
  have hark : op ≠ Op.ark := by
    rintro rfl
    exact hwindow (by decide)
  have hissued : s.issued = microWord op 0#4 := issued_of_ph hph hark
  have hclosed : s.envFailWindow = false := by simpa [State.envFailWindow, hph] using hwindow
  have hev : (s.envFail && s.envFailWindow) = false := by rw [hclosed, Bool.and_false]
  rw [step_eq_exec (.inl hin) (by rwa [hph]) hev (by rwa [hissued]), State.popped_of_nil hin]

/-- The step of FIN in a rejected call (R177, R207). -/
theorem step_fin_of_not_errPastChk {s : State} (hph : s.ph = Op.fin) (hin : s.inputs = [])
    (herr : s.errPastChk = false) : step s = .next s.ended := by
  rw [step_eq_exec_outside_window (i := .fin) hin hph (by decide) (by decide) (by decide), exec,
    execFin_of_not_errPastChk herr]

/-- A call with an invalid descriptor is CHK, which raises, and FIN, which ends it. -/
theorem run_of_invalid {s : State} {n kl il : Nat} (hph : s.ph = Op.chk) (hin : s.inputs = [])
    (hn : s.ptLen = some n) (hkl : s.keyLen = some kl) (hil : s.ivLen = some il)
    (hbad : n % 16 ≠ 0 ∨ kl ≠ 16 ∨ il ≠ 16) :
    Host.Core.run Sys2Proof.core 2 s = .next (s.raise (rejectCode n)).ended := by
  have hchk : step s = .next (s.raise (rejectCode n)) := by
    rw [step_eq_exec_outside_window (i := .chk) hin hph (by decide) (by decide) (by decide), exec,
      execChk_of_invalid hn hkl hil hbad]
  have hfin : step (s.raise (rejectCode n)) = .next (s.raise (rejectCode n)).ended :=
    step_fin_of_not_errPastChk rfl hin (errPastChk_raise_rejectCode s n)
  exact (run_succ_of_step hchk 1).trans (run_succ_of_step hfin 0)

end Sys2Proof.Machine
end

section
/-! The statements of the errors (60_exceptions.md). -/

namespace Sys2Proof.Machine

/-- Settles O35: neither step looks at memory, so the run of two steps is the same over any other
memory. -/
theorem rejectedCallEnds : Obligations.RejectedCallEnds := by
  intro s n kl il _ hph hin hn hkl hil hbad
  refine ⟨_, run_of_invalid hph hin hn hkl hil hbad, ?_, rfl, rfl, rfl, fun m => ?_⟩
  · have herr : (s.raise (rejectCode n)).err = rejectCode n := rfl
    rw [State.ended_statusWord_eq, herr, rejectCode]
    split <;> rfl
  · exact run_of_invalid (s := { s with mem := m }) hph hin hn hkl hil hbad

/-- Settles O43: a CHK that answers is a raise or the pass, which keeps ERR; and FIN after a raise
discards and ends, whether or not it takes the scratch licence. -/
theorem raiseSetsErrorAndFin : Obligations.RaiseSetsErrorAndFin := by
  refine fun s e => ⟨rfl, fun t => execChk_eq_raise_of_err, fun t h => ?_⟩
  obtain ⟨u, hu, rfl⟩ := execFin_eq_next.1 h
  have herr : u.err = e := finScratch_err hu
  exact ⟨herr, rfl, rfl, rfl, rfl, rfl, rfl, rfl, rfl, rfl⟩

end Sys2Proof.Machine
end

section
/-! SUPPORT for the proofs. Reset: the step that asserts it, the engine it leaves, and the part of
memory it can change (R42, R230, R231). -/

namespace Sys2Proof.Machine

/-- The step of a reset due answers in every state (R230). -/
theorem step_reset {s : State} {rest : List HostMove} (hin : s.inputs = .reset :: rest) :
    step s = .next s.popped.assertReset := by
  rw [step_eq_serve, hin]
  rfl

/-- STATUS after a reset is 0x00 (R42). -/
@[simp] theorem State.resetEngine_statusWord (s : State) :
    s.resetEngine.statusWord = 0x00#8 := by
  simp [State.statusWord]

/-- Reset in a call past CHK draws the ciphertext region, up to the end of the address space (R231;
log 23). -/
theorem assertReset_of_pastChk {s : State} (h : s.pastChk = true) :
    s.assertReset = (s.spoil (s.readDesc .ctAddr) (min (s.readDesc .ptLen + 176)
      (2 ^ s.cfg.addrW - s.readDesc .ctAddr))).resetEngine := if_pos h

/-- Any other reset is that of the engine alone (R230; log 23). -/
theorem assertReset_of_not_pastChk {s : State} (h : s.pastChk = false) :
    s.assertReset = s.resetEngine := if_neg (Bool.eq_false_iff.1 h)

/-- Every reset is that of the engine, from a state that differs at most by the bytes drawn inside
the ciphertext region, data part and scratch (R230, R231). -/
theorem exists_assertReset_eq_resetEngine (s : State) :
    ∃ u : State, s.assertReset = u.resetEngine ∧
      UnchangedOutside s u (s.readDesc .ctAddr) (s.readDesc .ptLen + 176) := by
  cases hpast : s.pastChk with
  | false => exact ⟨s, assertReset_of_not_pastChk hpast, fun _ _ => rfl⟩
  | true =>
    exact ⟨_, assertReset_of_pastChk hpast, fun _ hx => spoil_read_outside s _ _ (by omega)⟩

end Sys2Proof.Machine
end

section
/-! The statement of reset in a call (70_reset_and_hazards.md). -/

namespace Sys2Proof.Machine

/-- Settles O54: the engine is at its reset values, and the draws stay in the ciphertext region.
Both hold of a reset in every state, so neither the invariant nor the phase is used. -/
theorem resetDuringCall : Obligations.ResetDuringCall := by
  intro s rest ct n _ hin _ hct hn
  have hctRead : s.readDesc .ctAddr = ct := readDesc_of_some hct
  have hnRead : s.readDesc .ptLen = n := readDesc_of_some hn
  obtain ⟨u, hreset, hmem⟩ := exists_assertReset_eq_resetEngine s.popped
  rw [State.popped_readDesc, State.popped_readDesc, hctRead, hnRead] at hmem
  refine ⟨u.resetEngine, (step_reset hin).trans (congrArg _ hreset), ?_⟩
  exact ⟨u.resetEngine_statusWord, u.resetEngine_regS, u.resetEngine_regW, u.resetEngine_rcon,
    u.resetEngine_rk, u.resetEngine_nblk, u.resetEngine_rkv, hmem⟩

end Sys2Proof.Machine
end

section
/-! SUPPORT for the proofs. What a step does to memory, at most one write (R50, R58), and the shape
of the state, which every step keeps (10_state.md sections 1 and 5). -/

namespace Sys2Proof.Machine

/-! What a step does to memory. -/

/-- Memory of t is memory of s after at most one write, at addresses that exist (R50). -/
def WritesOnce (s t : State) : Prop :=
  ∃ a bs, t.mem = Memory.writeSeq s.mem a bs ∧ (bs = [] ∨ a + bs.length ≤ 2 ^ s.cfg.addrW)

theorem WritesOnce.of_mem_eq {s t : State} (h : t.mem = s.mem) : WritesOnce s t :=
  ⟨0, [], h, .inl rfl⟩

theorem WritesOnce.wf {s t : State} (h : WritesOnce s t) (hs : Memory.wf s.mem) :
    Memory.wf t.mem := by
  obtain ⟨a, bs, hmem, -⟩ := h
  exact hmem ▸ Memory.writeSeq_wf a bs hs

theorem WritesOnce.bound {s t : State} (h : WritesOnce s t)
    (hs : ∀ c ∈ s.mem, c.1 < 2 ^ s.cfg.addrW) : ∀ c ∈ t.mem, c.1 < 2 ^ s.cfg.addrW := by
  obtain ⟨a, bs, hmem, hbs⟩ := h
  exact hmem ▸ Memory.mem_writeSeq_lt hs hbs

theorem writesOnce_spoil {s : State} {a n : Nat} (h : n = 0 ∨ a + n ≤ 2 ^ s.cfg.addrW) :
    WritesOnce s (s.spoil a n) :=
  ⟨a, drawBytes s.draws n, rfl, by
    rwa [drawBytes_length, ← List.length_eq_zero_iff, drawBytes_length]⟩

theorem finScratch_writesOnce {s t : State} (h : finScratch s = .ok t) : WritesOnce s t := by
  obtain ⟨-, hexist, rfl⟩ | ⟨-, rfl⟩ := finScratch_eq_ok.1 h
  · exact writesOnce_spoil (.inr hexist)
  · exact .of_mem_eq rfl

theorem envFailEvent_writesOnce {s t : State} (h : envFailEvent s = .next t) : WritesOnce s t := by
  obtain ⟨hexist, rfl⟩ := envFailEvent_eq_next.1 h
  exact writesOnce_spoil (.inr hexist)

theorem assertReset_writesOnce (s : State) : WritesOnce s s.assertReset := by
  cases hpast : s.pastChk with
  | false => exact .of_mem_eq (by rw [assertReset_of_not_pastChk hpast]; rfl)
  | true =>
    rw [assertReset_of_pastChk hpast]
    exact writesOnce_spoil (s := s) (by omega)

theorem execBst_writesOnce {s t : State} (h : execBst s = .next t) : WritesOnce s t := by
  obtain ⟨b, n, hb, -, hexist, rfl⟩ := execBst_eq_next.1 h
  exact ⟨_, b, rfl, .inr (by rwa [readFile_length hb])⟩

theorem execFin_writesOnce {s t : State} (h : execFin s = .next t) : WritesOnce s t := by
  obtain ⟨u, hu, rfl⟩ := execFin_eq_next.1 h
  obtain ⟨a, bs, hmem, hbs⟩ := finScratch_writesOnce hu
  exact ⟨a, bs, hmem, hbs⟩

/-- Only BST and FIN write memory (R61). -/
theorem exec_mem_eq {i : Instr} {s t : State} (h : exec i s = .next t) (hbst : i ≠ .bst)
    (hfin : i ≠ .fin) : t.mem = s.mem := by
  cases i with
  | encrypt =>
    obtain ⟨-, -, rfl⟩ := execEncrypt_eq_next.1 h
    rfl
  | chk =>
    obtain ⟨-, rfl⟩ | ⟨-, -, rfl⟩ | ⟨-, -, -, -, rfl⟩ := execChk_eq_next.1 h <;> rfl
  | kld =>
    obtain ⟨key, -, rfl⟩ := execKld_eq_next.1 h
    rfl
  | kxw =>
    obtain ⟨-, prev, wr, back, -, -, -, hnext⟩ := execKxw_eq_next.1 h
    obtain ⟨-, rfl⟩ | ⟨-, n, -, rfl⟩ := kxwNext_eq_next.1 hnext <;> rfl
  | cbx =>
    obtain ⟨-, p, c, -, -, rfl⟩ := execCbx_eq_next.1 h
    rfl
  | ark k =>
    obtain ⟨-, -, b, key, -, -, rfl⟩ := execArk_eq_next.1 h
    rw [arkNext_eq]
  | sub | shr | mix =>
    obtain ⟨b, -, rfl⟩ := transformS_eq_next.1 h
    rfl
  | bst => exact absurd rfl hbst
  | fin => exact absurd rfl hfin

theorem exec_writesOnce {i : Instr} {s t : State} (h : exec i s = .next t) : WritesOnce s t := by
  by_cases hbst : i = .bst
  · subst hbst
    exact execBst_writesOnce h
  · by_cases hfin : i = .fin
    · subst hfin
      exact execFin_writesOnce h
    · exact .of_mem_eq (exec_mem_eq h hbst hfin)

/-- Every step writes memory at most once, at addresses that exist. -/
theorem step_writesOnce {s t : State} (h : step s = .next t) : WritesOnce s t := by
  cases step_cases h with
  | event _ _ _ run => exact envFailEvent_writesOnce (s := s.popped) run
  | micro _ _ _ _ _ _ run => exact exec_writesOnce (s := s.popped) run
  | command _ run => exact exec_writesOnce (i := .encrypt) (s := s.popped) run
  | memory a bs _ exist ht => exact ⟨a, bs, by rw [ht], .inr exist⟩
  | reset _ ht => exact ht ▸ assertReset_writesOnce s.popped
  | descriptor _ v d _ _ _ _ ht => exact .of_mem_eq (by rw [ht]; simp)
  | idle _ _ ht | ignored _ _ _ ht | answered _ _ _ _ ht | answeredFree _ _ _ _ ht
  | level _ _ ht => exact .of_mem_eq (by rw [ht]; rfl)

/-! What the reads give, in bytes. -/

theorem memRead_length {s : State} {a n : Nat} {bs : List Byte} (h : s.memRead a n = .ok bs) :
    bs.length = n := by
  rw [(memRead_eq_ok.1 h).2, Memory.bytes_length]

theorem readChain_length {i : Nat} {s : State} {c : List Byte} (h : readChain i s = .ok c) :
    c.length = 16 := by
  obtain ⟨-, hc⟩ | ⟨-, hc⟩ := readChain_eq_ok.1 h <;> exact memRead_length hc

/-- The word KXW derives has 4 bytes, and RCON holds a value after it (R123). -/
theorem kxwWord_ok {p : Nat} {prev : List Byte} {rcon : Option Byte} {wr : List Byte × Option Byte}
    (h : kxwWord p prev rcon = .ok wr) (hprev : prev.length = 4) :
    wr.1.length = 4 ∧ (rcon.isSome = true → wr.2.isSome = true) := by
  unfold kxwWord at h
  split at h
  · split at h
    · cases h
      exact ⟨boundaryWord_length _ _, fun _ => rfl⟩
    · cases h
  · cases h
    exact ⟨hprev, id⟩

/-- The word KXW stores has 4 bytes (R123). -/
theorem kxw_new_length {p : Nat} {f : ByteFile} {prev back : List Byte} {rcon : Option Byte}
    {wr : List Byte × Option Byte} (hprev : readFile f (p - 4) 4 = .ok prev)
    (hwr : kxwWord p prev rcon = .ok wr) (hback : readFile f (p - 16) 4 = .ok back) :
    (xorBytes wr.1 back).length = 4 := by
  rw [xorBytes_length, (kxwWord_ok hwr (readFile_length hprev)).1, readFile_length hback]
  rfl

/-! The shape. -/

theorem Shape.popped {s : State} (h : Shape s) : Shape s.popped := { h with }

theorem Shape.raise {s : State} (h : Shape s) (e : Nibble) : Shape (s.raise e) := { h with }

/-- A step that keeps the widths and the descriptor registers keeps the shape, when the register
groups keep their sizes and memory is written at most once. -/
theorem Shape.of_writesOnce {s t : State} (h : Shape s) (hmem : WritesOnce s t)
    (hcfg : t.cfg = s.cfg) (hdesc : t.desc = s.desc) (hS : t.regS.length = 16)
    (hW : t.regW.length = 4) (hrk : t.rk.length = 176) : Shape t where
  cfg_ok := hcfg ▸ h.cfg_ok
  regS_len := hS
  regW_len := hW
  rk_len := hrk
  mem_wf := hmem.wf h.mem_wf
  mem_bound := hcfg ▸ hmem.bound h.mem_bound
  desc_bound := hcfg ▸ hdesc ▸ h.desc_bound

theorem Shape.spoil {s : State} (h : Shape s) {a n : Nat}
    (hexist : n = 0 ∨ a + n ≤ 2 ^ s.cfg.addrW) : Shape (s.spoil a n) :=
  h.of_writesOnce (writesOnce_spoil hexist) rfl rfl h.regS_len h.regW_len h.rk_len

theorem finScratch_shape {s t : State} (h : Shape s) (run : finScratch s = .ok t) : Shape t := by
  obtain ⟨-, hexist, rfl⟩ | ⟨-, rfl⟩ := finScratch_eq_ok.1 run
  · exact h.spoil (.inr hexist)
  · exact h

theorem envFailEvent_shape {s t : State} (h : Shape s) (run : envFailEvent s = .next t) :
    Shape t := by
  obtain ⟨hexist, rfl⟩ := envFailEvent_eq_next.1 run
  exact (h.spoil (.inr hexist)).raise _

theorem Shape.resetEngine {s : State} (h : Shape s) : Shape s.resetEngine :=
  { h with regS_len := rfl, regW_len := rfl, rk_len := rfl, desc_bound := by simp [Desc.all] }

theorem assertReset_shape {s : State} (h : Shape s) : Shape s.assertReset := by
  cases hpast : s.pastChk with
  | false =>
    rw [assertReset_of_not_pastChk hpast]
    exact h.resetEngine
  | true =>
    rw [assertReset_of_pastChk hpast]
    exact (h.spoil (by omega)).resetEngine

theorem setDesc_shape {s : State} (h : Shape s) {d : Desc} {v : Nat}
    (hv : v < 2 ^ d.width s.cfg) : Shape (s.setDesc v d) where
  cfg_ok := by simpa using h.cfg_ok
  regS_len := by simpa using h.regS_len
  regW_len := by simpa using h.regW_len
  rk_len := by simpa using h.rk_len
  mem_wf := by simpa using h.mem_wf
  mem_bound := by simpa using h.mem_bound
  desc_bound := by
    intro e he w hw
    rw [State.setDesc_cfg]
    by_cases hde : e = d
    · subst hde
      rw [State.desc_setDesc_same] at hw
      cases hw
      exact hv
    · rw [State.desc_setDesc_ne s v hde] at hw
      exact h.desc_bound e he w hw

theorem transformS_shape {f : List Byte → List Byte} {p : Nibble} {s t : State} (h : Shape s)
    (hf : ∀ b, b.length = 16 → (f b).length = 16) (run : transformS f p s = .next t) : Shape t := by
  obtain ⟨b, hb, rfl⟩ := transformS_eq_next.1 run
  exact { h with regS_len := by rw [holding_length, hf b (readFile_length hb)] }

theorem execKxw_shape {s t : State} (h : Shape s) (run : execKxw s = .next t) : Shape t := by
  obtain ⟨-, prev, wr, back, hprev, hwr, hback, hnext⟩ := execKxw_eq_next.1 run
  have hnew := kxw_new_length hprev hwr hback
  have hW : (holding (xorBytes wr.1 back)).length = 4 := by rw [holding_length, hnew]
  have hrk : (writeFile s.rk s.kpos.toNat (xorBytes wr.1 back)).length = 176 := by
    rw [writeFile_length, h.rk_len]
  obtain ⟨-, rfl⟩ | ⟨-, n, -, rfl⟩ := kxwNext_eq_next.1 hnext <;>
    exact { h with regW_len := hW, rk_len := hrk }

/-- Every instruction keeps the shape of the state. -/
theorem exec_shape {i : Instr} {s t : State} (h : Shape s) (run : exec i s = .next t) :
    Shape t := by
  cases i with
  | encrypt =>
    obtain ⟨-, -, rfl⟩ := execEncrypt_eq_next.1 run
    exact { h with }
  | chk =>
    obtain ⟨-, rfl⟩ | ⟨-, -, rfl⟩ | ⟨-, -, -, -, rfl⟩ := execChk_eq_next.1 run
    · exact h.raise _
    · exact h.raise _
    · exact { h with }
  | kld =>
    obtain ⟨key, -, rfl⟩ := execKld_eq_next.1 run
    exact { h with rk_len := by rw [writeFile_length, h.rk_len] }
  | kxw => exact execKxw_shape h run
  | cbx =>
    obtain ⟨-, p, c, hp, hchain, rfl⟩ := execCbx_eq_next.1 run
    have hlen : (xorBytes p c).length = 16 := by
      rw [xorBytes_length, memRead_length hp, readChain_length hchain, min_self]
    exact { h with regS_len := by rw [holding_length, hlen] }
  | ark k =>
    obtain ⟨-, -, b, key, hb, hkey, rfl⟩ := execArk_eq_next.1 run
    rw [arkNext_eq]
    have hlen := addRoundKey_length (readFile_length hb) (readFile_length hkey)
    exact { h with regS_len := by rw [holding_length, hlen] }
  | sub => exact transformS_shape h (fun b hb => by rw [subBytes_length, hb]) run
  | shr => exact transformS_shape h (fun b _ => shiftRows_length b) run
  | mix => exact transformS_shape h (fun b _ => mixColumns_length b) run
  | bst =>
    have hmem := execBst_writesOnce run
    obtain ⟨b, n, -, -, -, rfl⟩ := execBst_eq_next.1 run
    exact h.of_writesOnce hmem rfl rfl h.regS_len h.regW_len h.rk_len
  | fin =>
    obtain ⟨u, hu, rfl⟩ := execFin_eq_next.1 run
    exact { finScratch_shape h hu with regS_len := rfl, regW_len := rfl, rk_len := rfl }

/-- Every step keeps the shape of the state. -/
theorem step_shape {s t : State} (h : Shape s) (run : step s = .next t) : Shape t := by
  have hpop := h.popped
  cases step_cases run with
  | event _ _ _ run => exact envFailEvent_shape hpop run
  | micro _ _ _ _ _ _ run => exact exec_shape hpop run
  | command _ run => exact exec_shape (i := .encrypt) hpop run
  | descriptor _ v d _ _ _ hv ht => exact ht ▸ setDesc_shape hpop hv
  | reset _ ht => exact ht ▸ assertReset_shape hpop
  | idle _ _ ht | ignored _ _ _ ht => exact ht ▸ hpop
  | answered _ _ _ _ ht | answeredFree _ _ _ _ ht | level _ _ ht => exact ht ▸ { hpop with }
  | memory a bs _ exist ht =>
    have hmem : WritesOnce s { s.popped with mem := Memory.writeSeq s.mem a bs } :=
      ⟨a, bs, rfl, .inr exist⟩
    exact ht ▸ h.of_writesOnce hmem rfl rfl h.regS_len h.regW_len h.rk_len

end Sys2Proof.Machine
end

section
/-! SUPPORT for the proofs. The invariant of the position (R86, R87) by the stages of a call: what
each stage gives, and what is enough for it. -/

namespace Sys2Proof.Machine

theorem envFailWindow_iff {s : State} :
    s.envFailWindow = true ↔ 2 ≤ s.ph.toNat ∧ s.ph.toNat ≤ 9 := by
  simp [State.envFailWindow]

theorem pastChkPos_iff {s : State} :
    s.pastChkPos = true ↔
      (2 ≤ s.ph.toNat ∧ s.ph.toNat ≤ 9) ∨ (s.ph = Op.fin ∧ s.errPastChk = true) := by
  simp [State.pastChkPos, envFailWindow_iff]

/-- What a descriptor that passed CHK holds (R56, R176). -/
theorem launched_iff {s : State} :
    s.launched = true ↔ ∃ pt n key iv ct,
      (s.ptAddr = some pt ∧ s.ptLen = some n ∧ s.keyAddr = some key ∧ s.keyLen = some 16 ∧
        s.ivAddr = some iv ∧ s.ivLen = some 16 ∧ s.ctAddr = some ct) ∧
      n % 16 = 0 ∧ buffersOk s.cfg pt n key iv ct = true := by
  unfold State.launched
  constructor
  · intro h
    split at h
    · rename_i pt n key kl iv il ct hpt hn hkey hkl hiv hil hct
      simp only [Bool.and_eq_true, beq_iff_eq] at h
      obtain ⟨⟨⟨hlen, rfl⟩, rfl⟩, hok⟩ := h
      exact ⟨pt, n, key, iv, ct, ⟨hpt, hn, hkey, hkl, hiv, hil, hct⟩, hlen, hok⟩
    · cases h
  · rintro ⟨pt, n, key, iv, ct, ⟨hpt, hn, hkey, hkl, hiv, hil, hct⟩, hlen, hok⟩
    simp [hpt, hn, hkey, hkl, hiv, hil, hct, hlen, hok]

theorem descWritten_of_launched {s : State} (h : s.launched = true) : s.descWritten = true := by
  obtain ⟨pt, n, key, iv, ct, ⟨hpt, hn, hkey, hkl, hiv, hil, hct⟩, -⟩ := launched_iff.1 h
  simp [State.descWritten, *]

theorem desc_eq_readDesc {s : State} (h : s.descWritten = true) (d : Desc) :
    s.desc d = some (s.readDesc d) := by
  obtain ⟨v, hv⟩ := Option.isSome_iff_exists.1 (s.descWritten_iff.1 h d)
  rw [hv, readDesc_of_some hv]

/-- The values of KPOS: 16, 20, ..., 176 (R29). -/
abbrev KposInRange (k : Byte) : Prop := 16 ≤ k.toNat ∧ k.toNat ≤ 176 ∧ k.toNat % 4 = 0

/-- What a call past CHK keeps until FIN is next (R31, R35, R56). -/
structure PastChk (s : State) : Prop where
  busy : s.busy = true
  done : s.done = false
  err : s.err = 0#4
  launched : s.launched = true
  nblk_eq : s.nblk = s.ptLen.map (· / 16)

/-- What a call keeps while its blocks are processed (R29, R32). -/
structure BlockReady (s : State) : Prop extends PastChk s where
  kpos_ok : KposInRange s.kpos
  rkv : s.rkv = true
  rk_held : allHeld s.rk
  blk_lt : ∀ n ∈ s.nblk, s.blk < n

theorem Consistent.idle_of_not_busy {s : State} (h : Consistent s) (hbusy : s.busy = false) :
    s.ph = Op.idle := by
  by_contra hne
  simp [h.busy_iff.2 hne] at hbusy

theorem Consistent.done_eq_false {s : State} (h : Consistent s) (hidle : s.ph ≠ Op.idle) :
    s.done = false :=
  Bool.eq_false_iff.2 fun hd => h.not_both ⟨h.busy_iff.2 hidle, hd⟩

theorem Consistent.pastChk {s : State} (h : Consistent s)
    (hph : 2 ≤ s.ph.toNat ∧ s.ph.toNat ≤ 9) : PastChk s where
  busy := h.busy_iff.2 (by bv_omega)
  done := h.done_eq_false (by bv_omega)
  err := h.err_zero (.inl (by bv_omega))
  launched := h.launched (pastChkPos_iff.2 (.inl hph))
  nblk_eq := h.nblk_eq (envFailWindow_iff.2 hph)

theorem Consistent.blockReady {s : State} (h : Consistent s)
    (hph : 4 ≤ s.ph.toNat ∧ s.ph.toNat ≤ 9) : BlockReady s where
  toPastChk := h.pastChk (by omega)
  kpos_ok := h.kpos_ok
  rkv := h.blocks_rkv hph
  rk_held := (h.rkv_held (h.blocks_rkv hph)).1
  blk_lt := h.blk_lt hph

/-- The block in progress at the position of a round (R161, R172). -/
structure RoundReady (s : State) : Prop where
  regS_held : allHeld s.regS
  round_pos : s.ph = Op.sub ∨ s.ph = Op.shr ∨ s.ph = Op.mix → 1 ≤ s.rnd.toNat
  mix_not_last : s.ph = Op.mix → s.rnd.toNat ≤ 9
  bst_last : s.ph = Op.bst → s.rnd = 10#4

/-- What holds while nothing of a key is in the engine (R40, R42). -/
structure BeforeKey (s : State) : Prop where
  data_none : s.regS = discarded 16 ∧ s.regW = discarded 4 ∧ s.rcon = none ∧ s.rk = discarded 176
  rkv : s.rkv = false
  blk : s.blk = 0
  rnd_le : s.rnd.toNat ≤ 10
  kpos_ok : KposInRange s.kpos

theorem Consistent.rkv_eq_false {s : State} (h : Consistent s) (hph : s.ph.toNat ≤ 3) :
    s.rkv = false := Bool.eq_false_iff.2 fun hrkv => by
  have := (h.rkv_held hrkv).2
  omega

theorem Consistent.beforeKey {s : State} (h : Consistent s) (hph : s.ph.toNat ≤ 2) :
    BeforeKey s where
  data_none := h.data_none hph
  rkv := h.rkv_eq_false (by omega)
  blk := h.blk_zero (by omega)
  rnd_le := h.rnd_le
  kpos_ok := h.kpos_ok

/-- The invariant at IDLE and CHK. -/
theorem Consistent.of_beforeKey {t : State} (h : BeforeKey t) (hph : t.ph.toNat ≤ 1)
    (nblk : t.nblk = none) (busy : t.busy = true ↔ t.ph = Op.chk)
    (done : t.ph = Op.chk → t.done = false) (err_le : t.err.toNat ≤ 3)
    (err_zero : t.done = false → t.err = 0#4)
    (idle_pos : t.ph = Op.idle → t.rnd = 0#4 ∧ t.kpos = 16#8)
    (written : t.ph = Op.chk → t.descWritten = true) : Consistent t := by
  have hcases : t.ph = Op.chk ↔ t.ph ≠ Op.idle := by bv_omega
  have hpast : t.pastChkPos ≠ true := fun hp => by
    have := pastChkPos_iff.1 hp
    bv_omega
  constructor
  case rnd_le => exact h.rnd_le
  case kpos_ok => exact h.kpos_ok
  case busy_iff => exact busy.trans hcases
  case not_both => exact fun hboth => by simp [done (busy.1 hboth.1)] at hboth
  case err_le => exact err_le
  case err_zero =>
    exact fun hz => err_zero (hz.elim (fun hrun => done (hcases.2 hrun.1)) And.right)
  case idle_pos => exact fun hidle => ⟨h.blk, idle_pos hidle⟩
  case desc_written => exact fun hidle => written (hcases.2 hidle)
  case launched => exact fun hp => absurd hp hpast
  case nblk_eq => exact fun hp => absurd (by rw [State.pastChkPos, hp, Bool.true_or]) hpast
  case data_none => exact fun _ => h.data_none
  case nblk_none => exact fun _ => nblk
  case rkv_held => simp [h.rkv]
  case blk_zero => exact fun _ => h.blk
  all_goals bv_omega

/-- The invariant from KLD to BST, by the stages of the call. -/
theorem Consistent.of_pastChk {t : State} (h : PastChk t)
    (hph : 2 ≤ t.ph.toNat ∧ t.ph.toNat ≤ 9) (rnd_le : t.rnd.toNat ≤ 10)
    (kpos_ok : KposInRange t.kpos)
    (kld : t.ph = Op.kld → BeforeKey t)
    (kxw : t.ph = Op.kxw → t.rkv = false ∧ t.blk = 0 ∧
      t.kpos.toNat ≤ 172 ∧ t.rcon.isSome = true ∧ allHeld (t.rk.take t.kpos.toNat))
    (block : 4 ≤ t.ph.toNat → BlockReady t) (round : 5 ≤ t.ph.toNat → RoundReady t) :
    Consistent t := by
  have hidle : t.ph ≠ Op.idle := by bv_omega
  have hstage : t.ph = Op.kld ∨ t.ph = Op.kxw ∨ 4 ≤ t.ph.toNat := by bv_omega
  constructor
  case rnd_le => exact rnd_le
  case kpos_ok => exact kpos_ok
  case busy_iff => simp [h.busy, hidle]
  case not_both => simp [h.done]
  case err_le => simp [h.err]
  case err_zero => exact fun _ => h.err
  case desc_written => exact fun _ => descWritten_of_launched h.launched
  case launched => exact fun _ => h.launched
  case nblk_eq => exact fun _ => h.nblk_eq
  case data_none => exact fun hle => (kld (by bv_omega)).data_none
  case kxw_ready => exact fun hkxw => (kxw hkxw).2.2
  case rkv_held =>
    intro hrkv
    obtain hp | hp | hp := hstage
    · simp [(kld hp).rkv] at hrkv
    · simp [(kxw hp).1] at hrkv
    · exact ⟨(block hp).rk_held, hp⟩
  case blocks_rkv => exact fun hp => (block hp.1).rkv
  case blk_lt => exact fun hp => (block hp.1).blk_lt
  case blk_zero =>
    intro hle
    obtain hp | hp | hp := hstage
    · exact (kld hp).blk
    · exact (kxw hp).2.1
    · omega
  case regS_held => exact fun hp => (round hp.1).regS_held
  case round_pos => exact fun hp => (round (by bv_omega)).round_pos hp
  case mix_not_last => exact fun hp => (round (by bv_omega)).mix_not_last hp
  case bst_last => exact fun hp => (round (by bv_omega)).bst_last hp
  all_goals bv_omega

/-- The invariant at FIN. -/
theorem Consistent.of_fin {t : State} (hph : t.ph = Op.fin) (busy : t.busy = true)
    (done : t.done = false) (err_le : t.err.toNat ≤ 3) (written : t.descWritten = true)
    (launched : t.errPastChk = true → t.launched = true) (rnd_le : t.rnd.toNat ≤ 10)
    (kpos_ok : KposInRange t.kpos)
    (rk_held : t.rkv = true → allHeld t.rk) : Consistent t := by
  have hidle : t.ph ≠ Op.idle := by bv_omega
  have hwindow : t.envFailWindow ≠ true := fun hp => by
    have := envFailWindow_iff.1 hp
    bv_omega
  constructor
  case rnd_le => exact rnd_le
  case kpos_ok => exact kpos_ok
  case busy_iff => simp [busy, hidle]
  case not_both => simp [done]
  case err_le => exact err_le
  case err_zero => simp [hph, busy]
  case desc_written => exact fun _ => written
  case launched =>
    exact fun hp => launched ((pastChkPos_iff.1 hp).elim (fun h => by bv_omega) And.right)
  case nblk_eq => exact fun hp => absurd hp hwindow
  case rkv_held => exact fun hrkv => ⟨rk_held hrkv, by simp [hph]⟩
  all_goals bv_omega

/-! One stage at a time. -/

theorem Consistent.of_round {t : State} (h : BlockReady t) (hph : 5 ≤ t.ph.toNat ∧ t.ph.toNat ≤ 9)
    (rnd_le : t.rnd.toNat ≤ 10) (round : RoundReady t) : Consistent t :=
  .of_pastChk h.toPastChk (by omega) rnd_le h.kpos_ok (by bv_omega) (by bv_omega) (fun _ => h)
    (fun _ => round)

theorem Consistent.of_cbx {t : State} (h : BlockReady t) (hph : t.ph = Op.cbx)
    (rnd_le : t.rnd.toNat ≤ 10) : Consistent t :=
  .of_pastChk h.toPastChk (by bv_omega) rnd_le h.kpos_ok (by bv_omega) (by bv_omega) (fun _ => h)
    (by bv_omega)

theorem Consistent.of_kld {t : State} (h : PastChk t) (hph : t.ph = Op.kld) (key : BeforeKey t) :
    Consistent t :=
  .of_pastChk h (by bv_omega) key.rnd_le key.kpos_ok (fun _ => key) (by bv_omega) (by bv_omega)
    (by bv_omega)

theorem Consistent.of_kxw {t : State} (h : PastChk t) (hph : t.ph = Op.kxw)
    (rnd_le : t.rnd.toNat ≤ 10) (rkv : t.rkv = false) (blk : t.blk = 0)
    (kpos : kposOk t.kpos.toNat = true) (rcon : t.rcon.isSome = true)
    (held : allHeld (t.rk.take t.kpos.toNat)) : Consistent t := by
  obtain ⟨h16, h172, h4⟩ := kposOk_iff.1 kpos
  exact .of_pastChk h (by bv_omega) rnd_le ⟨h16, by omega, h4⟩ (by bv_omega)
    (fun _ => ⟨rkv, blk, h172, rcon, held⟩) (by bv_omega) (by bv_omega)

/-- After the schedule and after each block, the next block or FIN follows (R87). -/
theorem Consistent.of_next_block {t : State} (h : PastChk t) {n : Nat} (hn : t.nblk = some n)
    (hph : t.ph = if t.blk < n then Op.cbx else Op.fin) (rnd_le : t.rnd.toNat ≤ 10)
    (kpos_ok : KposInRange t.kpos)
    (rkv : t.rkv = true) (rk_held : allHeld t.rk) : Consistent t := by
  split at hph
  · rename_i hlt
    refine .of_cbx ⟨h, kpos_ok, rkv, rk_held, fun m hm => ?_⟩ hph rnd_le
    rw [hn] at hm
    cases hm
    exact hlt
  · exact .of_fin hph h.busy h.done (by simp [h.err]) (descWritten_of_launched h.launched)
      (fun _ => h.launched) rnd_le kpos_ok fun _ => rk_held

end Sys2Proof.Machine
end

section
/-! SUPPORT for the proofs. Register groups that hold values (R28), read and written. -/

namespace Sys2Proof.Machine

theorem allHeld_holding (bs : List Byte) : allHeld (holding bs) := by
  simp [allHeld, holding]

/-- The first n bytes of a register group hold values: said index by index. -/
theorem allHeld_take_iff {f : ByteFile} {n : Nat} (hn : n ≤ f.length) :
    allHeld (f.take n) ↔ ∀ j < n, (f.getD j none).isSome = true := by
  simp only [allHeld, List.mem_iff_getElem, List.length_take, List.getElem_take]
  constructor
  · intro h j hj
    rw [List.getD, List.getElem?_eq_getElem (by omega), Option.getD_some]
    exact h _ ⟨j, by omega, rfl⟩
  · rintro h _ ⟨j, hj, rfl⟩
    have hget := h j (by omega)
    rwa [List.getD, List.getElem?_eq_getElem (by omega), Option.getD_some] at hget

theorem allHeld_iff {f : ByteFile} : allHeld f ↔ ∀ j < f.length, (f.getD j none).isSome = true := by
  rw [← allHeld_take_iff le_rfl, List.take_length]

/-- A read of bytes that all hold values gives them (R14). -/
theorem exists_readFile_eq_ok {f : ByteFile} {i n : Nat}
    (h : ∀ j, i ≤ j → j < i + n → (f.getD j none).isSome = true) :
    ∃ bs, readFile f i n = .ok bs := by
  cases hr : readFile f i n with
  | ok bs => exact ⟨bs, rfl⟩
  | error e =>
    -- A read stops at a byte that holds no value, and none of these is one.
    have hall : ∀ j (hj : j < n), (f.getD (i + j) none).isSome = true :=
      fun j hj => h _ (by omega) (by omega)
    have hget := readFile_eq_ok (f := f) (i := i) (n := n)
      (bs := List.ofFn fun j : Fin n => (f.getD (i + j) none).get (hall j j.2))
    rw [hr] at hget
    exact absurd (hget.2 ⟨by simp, fun j hj => by simp⟩) nofun

/-- A write that starts where the bytes held end extends them. -/
theorem allHeld_take_writeFile {f : ByteFile} {i : Nat} {bs : List Byte}
    (h : allHeld (f.take i)) (hf : i + bs.length ≤ f.length) :
    allHeld ((writeFile f i bs).take (i + bs.length)) := by
  rw [allHeld_take_iff (by omega)] at h
  rw [allHeld_take_iff (by simpa using hf)]
  intro j hj
  by_cases hlt : j < i
  · rw [writeFile_getD_outside _ _ _ (.inl hlt)]
    exact h j hlt
  · obtain ⟨k, rfl⟩ := Nat.exists_eq_add_of_le (Nat.not_lt.1 hlt)
    rw [writeFile_getD_inside _ _ _ (by omega) hf, Option.isSome_some]

end Sys2Proof.Machine
end

section
/-! SUPPORT for the proofs. Every instruction in its phase, and so every step, keeps the invariant
of the position (R86, R87). -/

namespace Sys2Proof.Machine

/-- An error raised in a call keeps the invariant (R206). -/
theorem Consistent.raise {s : State} (h : Consistent s) (hidle : s.ph ≠ Op.idle) {e : Nibble}
    (he : e.toNat ≤ 3) (hlaunched : e = 0#4 ∨ e = 3#4 → s.launched = true) :
    Consistent (s.raise e) := by
  have hlaunched' (hp : (s.raise e).errPastChk = true) : s.launched = true :=
    hlaunched (errPastChk_iff.1 hp)
  exact .of_fin rfl (h.busy_iff.2 hidle) (h.done_eq_false hidle) he (h.desc_written hidle)
    hlaunched' h.rnd_le h.kpos_ok fun hrkv => (h.rkv_held hrkv).1

/-! The instructions. -/

theorem execEncrypt_consistent {s t : State} (h : Consistent s) (run : execEncrypt s = .next t) :
    Consistent t := by
  obtain ⟨hbusy, hwritten, rfl⟩ := execEncrypt_eq_next.1 run
  have hidle := h.idle_of_not_busy hbusy
  have hkey := h.beforeKey (by simp [hidle])
  have hstart : BeforeKey s.startCall :=
    { hkey with blk := rfl, rnd_le := by simp, kpos_ok := show KposInRange 16#8 by decide }
  exact .of_beforeKey hstart (hph := by simp) (nblk := h.nblk_none (by simp [hidle]))
    (busy := by simp) (done := by simp) (err_le := by simp) (err_zero := by simp)
    (idle_pos := by simp) (written := fun _ => hwritten)

theorem execChk_consistent {s t : State} (h : Consistent s) (hph : s.ph = Op.chk)
    (run : execChk s = .next t) : Consistent t := by
  have hidle : s.ph ≠ Op.idle := by bv_omega
  have hreg (d : Desc) := desc_eq_readDesc (h.desc_written hidle) d
  obtain ⟨-, rfl⟩ | ⟨-, -, rfl⟩ | ⟨hlen, hkl, hil, hok, rfl⟩ := execChk_eq_next.1 run
  · exact h.raise hidle (by decide) fun he => absurd he (by decide)
  · exact h.raise hidle (by decide) fun he => absurd he (by decide)
  · have hkey := h.beforeKey (by bv_omega)
    have hlaunched : s.launched = true := launched_iff.2 ⟨_, _, _, _, _, ⟨hreg .ptAddr, hreg .ptLen,
      hreg .keyAddr, hkl ▸ hreg .keyLen, hreg .ivAddr, hil ▸ hreg .ivLen, hreg .ctAddr⟩, hlen, hok⟩
    have hnblk : some (s.readDesc .ptLen / 16) = s.ptLen.map (· / 16) := by
      rw [show s.ptLen = _ from hreg .ptLen, Option.map_some]
    have herr := h.err_zero (.inl ⟨hidle, by bv_omega⟩)
    exact .of_kld ⟨h.busy_iff.2 hidle, h.done_eq_false hidle, herr, hlaunched, hnblk⟩ rfl
      { hkey with }

theorem execKld_consistent {s t : State} (h : Consistent s) (hrk : s.rk.length = 176)
    (hph : s.ph = Op.kld) (run : execKld s = .next t) : Consistent t := by
  obtain ⟨key, hkey, rfl⟩ := execKld_eq_next.1 run
  have hlen : key.length = 16 := memRead_length hkey
  have hheld := allHeld_take_writeFile (f := s.rk) (i := 0) (bs := key) (by simp [allHeld])
    (by omega)
  rw [hlen] at hheld
  have hpast := h.pastChk (by simp [hph])
  exact .of_kxw { hpast with } rfl h.rnd_le rfl (h.blk_zero (by simp [hph]))
    (kposOk_iff.2 (by simp)) rfl hheld

theorem execKxw_consistent {s t : State} (h : Consistent s) (hrk : s.rk.length = 176)
    (hph : s.ph = Op.kxw) (run : execKxw s = .next t) : Consistent t := by
  obtain ⟨hpos, prev, wr, back, hprev, hwr, hback, hnext⟩ := execKxw_eq_next.1 run
  obtain ⟨h16, h172, h4⟩ := kposOk_iff.1 hpos
  obtain ⟨-, hrcon, hheld⟩ := h.kxw_ready hph
  have hnew := kxw_new_length hprev hwr hback
  have hheld' := allHeld_take_writeFile hheld (bs := xorBytes wr.1 back) (by omega)
  rw [hnew] at hheld'
  have hpast := h.pastChk (by simp [hph])
  obtain ⟨hlt, rfl⟩ | ⟨hlast, n, hn, rfl⟩ := kxwNext_eq_next.1 hnext
  · have hkpos : (BitVec.ofNat 8 (s.kpos.toNat + 4)).toNat = s.kpos.toNat + 4 :=
      (BitVec.toNat_ofNat _ _).trans (Nat.mod_eq_of_lt (by omega))
    have hrcon' := (kxwWord_ok hwr (readFile_length hprev)).2 hrcon
    refine .of_kxw { hpast with } hph h.rnd_le (h.rkv_eq_false (by simp [hph]))
      (h.blk_zero (by simp [hph])) (kposOk_iff.2 ?_) hrcon' ?_
    · dsimp only
      omega
    · dsimp only
      rwa [hkpos]
  · refine .of_next_block { hpast with } hn rfl h.rnd_le (show KposInRange 176#8 by decide) rfl ?_
    rwa [List.take_of_length_le (by simp; omega)] at hheld'

theorem execCbx_consistent {s t : State} (h : Consistent s) (hph : s.ph = Op.cbx)
    (run : execCbx s = .next t) : Consistent t := by
  obtain ⟨-, p, c, -, -, rfl⟩ := execCbx_eq_next.1 run
  have hblock := h.blockReady (by simp [hph])
  exact .of_round { hblock with } (by simp) (by simp)
    ⟨allHeld_holding _, by bv_omega, by bv_omega, by bv_omega⟩

theorem execArk_consistent {k : Nibble} {s t : State} (h : Consistent s) (hph : s.ph = Op.ark)
    (run : execArk k s = .next t) : Consistent t := by
  obtain ⟨-, -, b, key, -, -, rfl⟩ := execArk_eq_next.1 run
  have hblock := h.blockReady (by simp [hph])
  have hrnd := h.rnd_le
  rw [arkNext_eq]
  by_cases hlt : s.rnd.toNat < 10
  · simp only [hlt, if_true]
    exact .of_round { hblock with } (by simp) (by bv_omega)
      ⟨allHeld_holding _, by bv_omega, by bv_omega, by bv_omega⟩
  · simp only [hlt, if_false]
    exact .of_round { hblock with } (by simp) hrnd
      ⟨allHeld_holding _, by bv_omega, by bv_omega, by bv_omega⟩

/-- SUB, SHR and MIX keep the invariant when the phase they set is right for the round. -/
theorem transformS_consistent {f : List Byte → List Byte} {p : Nibble} {s t : State}
    (h : Consistent s) (hph : 5 ≤ s.ph.toNat ∧ s.ph.toNat ≤ 9)
    (hp : p = Op.shr ∧ 1 ≤ s.rnd.toNat ∨ p = Op.mix ∧ 1 ≤ s.rnd.toNat ∧ s.rnd.toNat < 10 ∨
      p = Op.ark)
    (run : transformS f p s = .next t) : Consistent t := by
  obtain ⟨b, -, rfl⟩ := transformS_eq_next.1 run
  have hblock := h.blockReady (by omega)
  exact .of_round { hblock with } (by bv_omega) h.rnd_le
    ⟨allHeld_holding _, by bv_omega, by bv_omega, by bv_omega⟩

theorem execBst_consistent {s t : State} (h : Consistent s) (hph : s.ph = Op.bst)
    (run : execBst s = .next t) : Consistent t := by
  obtain ⟨b, n, -, hn, -, rfl⟩ := execBst_eq_next.1 run
  have hblock := h.blockReady (by simp [hph])
  exact .of_next_block { hblock with } hn rfl h.rnd_le hblock.kpos_ok hblock.rkv hblock.rk_held

theorem execFin_consistent {s t : State} (h : Consistent s) (run : execFin s = .next t) :
    Consistent t := by
  obtain ⟨u, hu, rfl⟩ := execFin_eq_next.1 run
  have herr : u.err.toNat ≤ 3 := finScratch_err hu ▸ h.err_le
  exact .of_beforeKey ⟨⟨rfl, rfl, rfl, rfl⟩, rfl, rfl, by simp, show KposInRange 16#8 by decide⟩
    (hph := by simp) (nblk := rfl) (busy := by simp) (done := by simp) (err_le := herr)
    (err_zero := nofun) (idle_pos := fun _ => ⟨rfl, rfl⟩) (written := nofun)

/-- Every instruction keeps the invariant of the position, in the phase it runs in (R86, R87). -/
theorem exec_consistent {i : Instr} {s t : State} (h : Consistent s) (hrk : s.rk.length = 176)
    (hph : s.ph = opField (encode i)) (run : exec i s = .next t) : Consistent t := by
  cases i with
  | encrypt => exact execEncrypt_consistent h run
  | chk => exact execChk_consistent h hph run
  | kld => exact execKld_consistent h hrk hph run
  | kxw => exact execKxw_consistent h hrk hph run
  | cbx => exact execCbx_consistent h hph run
  | ark k => exact execArk_consistent h (hph.trans (opField_microWord _ _)) run
  | sub =>
    have hpos := h.round_pos (.inl hph)
    exact transformS_consistent h (by rw [hph]; decide) (.inl ⟨rfl, hpos⟩) run
  | shr =>
    refine transformS_consistent h (by rw [hph]; decide) ?_ run
    have hpos := h.round_pos (.inr (.inl hph))
    split
    · exact .inr (.inl ⟨rfl, hpos, ‹_›⟩)
    · exact .inr (.inr rfl)
  | mix => exact transformS_consistent h (by rw [hph]; decide) (.inr (.inr rfl)) run
  | bst => exact execBst_consistent h hph run
  | fin => exact execFin_consistent h run

/-! The steps. -/

theorem setDesc_consistent {s : State} (h : Consistent s) (hbusy : s.busy = false) (v : Nat)
    (d : Desc) : Consistent (s.setDesc v d) := by
  have hidle := h.idle_of_not_busy hbusy
  obtain ⟨-, hrnd, hkpos⟩ := h.idle_pos hidle
  have hkey := h.beforeKey (by simp [hidle])
  have hwrite : BeforeKey (s.setDesc v d) :=
    ⟨by simp [hkey.data_none], by simp [hkey.rkv], by simp [hkey.blk], by simp [hrnd],
      by simp [hkpos, KposInRange]⟩
  exact .of_beforeKey hwrite (hph := by simp [hidle]) (nblk := by simp [h.nblk_none, hidle])
    (busy := by simp [hbusy, hidle]) (done := by simp [hidle]) (err_le := by simp [h.err_le])
    (err_zero := fun hdone => by simp_all [h.err_zero]) (idle_pos := by simp [hrnd, hkpos])
    (written := by simp [hidle])

theorem Consistent.popped {s : State} (h : Consistent s) : Consistent s.popped := { h with }

theorem reset_consistent : Consistent State.reset :=
  .of_beforeKey ⟨⟨rfl, rfl, rfl, rfl⟩, rfl, rfl, by decide, by decide⟩ (hph := by decide)
    (nblk := rfl) (busy := by decide) (done := by decide) (err_le := by decide)
    (err_zero := fun _ => rfl) (idle_pos := fun _ => ⟨rfl, rfl⟩) (written := by decide)

theorem reset_shape : Shape State.reset where
  cfg_ok := by decide
  regS_len := rfl
  regW_len := rfl
  rk_len := rfl
  mem_wf := .nil
  mem_bound := nofun
  desc_bound := by simp [Desc.all, State.reset, State.desc]

theorem assertReset_consistent (s : State) : Consistent s.assertReset := by
  obtain ⟨u, hu, -⟩ := exists_assertReset_eq_resetEngine s
  rw [hu]
  exact { reset_consistent with }

theorem envFailEvent_consistent {s t : State} (h : Consistent s) (hwindow : s.envFailWindow = true)
    (run : envFailEvent s = .next t) : Consistent t := by
  obtain ⟨-, rfl⟩ := envFailEvent_eq_next.1 run
  have hph := envFailWindow_iff.1 hwindow
  have hidle : s.ph ≠ Op.idle := by bv_omega
  exact Consistent.raise (s := s.spoil _ _) { h with } hidle (by decide)
    fun _ => (h.pastChk hph).launched

/-- Every step keeps the invariant of the position, where RK has its size. -/
theorem step_consistent {s t : State} (h : Consistent s) (hrk : s.rk.length = 176)
    (run : step s = .next t) : Consistent t := by
  have hpop := h.popped
  cases step_cases run with
  | event _ _ window run => exact envFailEvent_consistent hpop window run
  | micro _ _ _ _ _ hph run => exact exec_consistent hpop hrk hph run
  | command _ run => exact execEncrypt_consistent hpop run
  | descriptor _ v d _ _ hbusy _ ht => exact ht ▸ setDesc_consistent hpop hbusy v d
  | reset _ ht => exact ht ▸ assertReset_consistent _
  | idle _ _ ht | ignored _ _ _ ht => exact ht ▸ hpop
  | answered _ _ _ _ ht | answeredFree _ _ _ _ ht | level _ _ ht | memory _ _ _ _ ht =>
    exact ht ▸ { hpop with }

end Sys2Proof.Machine
end

section
/-! The statements of the invariant. -/

namespace Sys2Proof.Machine

/-- Settles O57: the shape and the position are kept by every row of `StepCase`. -/
theorem invariantKept : Obligations.InvariantKept := fun _ _ h run =>
  ⟨step_shape h.shape run, step_consistent h.consistent h.shape.rk_len run⟩

/-- Settles O55: a step writes memory at most once, and a write keeps the form. -/
theorem memoryCanonicalKept : Obligations.MemoryCanonicalKept := fun _ _ h run =>
  (step_writesOnce run).wf h

/-- Settles O56, row by row of `StepCase`. -/
theorem shapeKept : Obligations.ShapeKept := fun _ _ => step_shape

/-- Settles O58: at reset nothing of a key is in the engine, which is idle. -/
theorem resetMeetsInvariant : Obligations.ResetMeetsInvariant := ⟨reset_shape, reset_consistent⟩

end Sys2Proof.Machine
end

section
/-! SUPPORT for the proofs. The multiplier of GF(2^8) is additive in each factor, and a byte is the
sum of the powers of x at its set bits; so a law of products need only be checked on those powers
(40_function_units.md section 3). -/

namespace Sys2Proof.Machine

/-! Sums of bytes. -/

/-- The sum in GF(2^8) of the first n terms. -/
def xorSum (f : Nat → Byte) : Nat → Byte
  | 0 => 0#8
  | n + 1 => xorSum f n ^^^ f n

theorem xorSum_xor (f g : Nat → Byte) (n : Nat) :
    xorSum (fun i => f i ^^^ g i) n = xorSum f n ^^^ xorSum g n := by
  induction n with
  | zero => exact (BitVec.xor_self (x := 0#8)).symm
  | succ n ih =>
    simp only [xorSum, ih]
    ac_rfl

theorem foldl_xor_eq_xorSum (c : Nat → Bool) (f : Nat → Byte) (n : Nat) :
    (List.range n).foldl (fun p i => if c i then p ^^^ f i else p) 0#8 =
      xorSum (fun i => if c i then f i else 0#8) n := by
  induction n with
  | zero => rfl
  | succ n ih =>
    rw [List.range_succ, List.foldl_append, ih, xorSum, List.foldl_cons, List.foldl_nil]
    split
    · rfl
    · rw [BitVec.xor_zero]

/-- A map of bytes that takes sums in GF(2^8) to sums. -/
def XorHom (f : Byte → Byte) : Prop := ∀ a b, f (a ^^^ b) = f a ^^^ f b

theorem XorHom.zero {f : Byte → Byte} (hf : XorHom f) : f 0#8 = 0#8 := by
  have h := hf 0#8 0#8
  rwa [BitVec.xor_self, BitVec.xor_self] at h

theorem XorHom.comp {f g : Byte → Byte} (hf : XorHom f) (hg : XorHom g) : XorHom (f ∘ g) :=
  fun a b => (congrArg f (hg a b)).trans (hf _ _)

theorem XorHom.iterate {f : Byte → Byte} (hf : XorHom f) (n : Nat) : XorHom f^[n] := by
  induction n with
  | zero => exact fun _ _ => rfl
  | succ n ih => exact ih.comp hf

theorem XorHom.map_xorSum {f : Byte → Byte} (hf : XorHom f) (g : Nat → Byte) (n : Nat) :
    f (xorSum g n) = xorSum (f ∘ g) n := by
  induction n with
  | zero => exact hf.zero
  | succ n ih => rw [xorSum, hf, ih, xorSum, Function.comp]

/-- The power of x of exponent i, as a byte. -/
def xPow (i : Nat) : Byte := 1#8 <<< i

/-- A byte is the sum of the powers of x at its set bits (R104). -/
theorem byte_eq_xorSum (b : Byte) :
    b = xorSum (fun i => if b.getLsbD i then xPow i else 0#8) 8 := by
  revert b; decide

/-- Additive maps that agree on the eight powers of x agree everywhere. -/
theorem XorHom.ext {f g : Byte → Byte} (hf : XorHom f) (hg : XorHom g)
    (h : ∀ i < 8, f (xPow i) = g (xPow i)) (b : Byte) : f b = g b := by
  have hterms (n : Nat) (hn : n ≤ 8) :
      xorSum (f ∘ fun i => if b.getLsbD i then xPow i else 0#8) n =
        xorSum (g ∘ fun i => if b.getLsbD i then xPow i else 0#8) n := by
    induction n with
    | zero => rfl
    | succ n ih =>
      simp only [xorSum, ih (by omega), Function.comp, apply_ite f, apply_ite g, h n hn, hf.zero,
        hg.zero]
  rw [byte_eq_xorSum b, hf.map_xorSum, hg.map_xorSum, hterms 8 le_rfl]

/-! The multiplier. -/

theorem gfmul_eq_xorSum (a b : Byte) :
    gfmul a b = xorSum (fun i => if b.getLsbD i then xtime^[i] a else 0#8) 8 :=
  (gfmulLoop_eq_foldl 8 a b 0#8).trans (foldl_xor_eq_xorSum _ _ _)

/-- Doubling is additive: it is the remainder of the shifted polynomial (R106). -/
theorem xtime_xorHom : XorHom xtime := fun a b => by
  have h (c : Byte) : xtime c = polyReduce (c.setWidth 16 <<< 1) :=
    (polyReduce_shiftLeft c (i := 1) (by decide)).symm
  rw [h, h, h, BitVec.setWidth_xor, BitVec.shiftLeft_xor_distrib, polyReduce_xor]

theorem gfmul_xorHom_left (b : Byte) : XorHom (gfmul · b) := fun a a' => by
  have hterm (i : Nat) : (if b.getLsbD i then xtime^[i] (a ^^^ a') else 0#8) =
      (if b.getLsbD i then xtime^[i] a else 0#8) ^^^
        (if b.getLsbD i then xtime^[i] a' else 0#8) := by
    rw [xtime_xorHom.iterate i]
    cases b.getLsbD i <;> simp
  simp only [gfmul_eq_xorSum, hterm, xorSum_xor]

theorem gfmul_xorHom_right (a : Byte) : XorHom (gfmul a) := fun b b' => by
  have hterm (i : Nat) : (if (b ^^^ b').getLsbD i then xtime^[i] a else 0#8) =
      (if b.getLsbD i then xtime^[i] a else 0#8) ^^^
        (if b'.getLsbD i then xtime^[i] a else 0#8) := by
    rw [BitVec.getLsbD_xor]
    cases b.getLsbD i <;> cases b'.getLsbD i <;> simp
  simp only [gfmul_eq_xorSum, hterm, xorSum_xor]

/-- Distributivity (R107), in the second factor. -/
theorem gfmul_xor_right (a b c : Byte) : gfmul a (b ^^^ c) = gfmul a b ^^^ gfmul a c :=
  gfmul_xorHom_right a b c

/-- Distributivity (R107), in the first factor. -/
theorem gfmul_xor_left (a b c : Byte) : gfmul (a ^^^ b) c = gfmul a c ^^^ gfmul b c :=
  gfmul_xorHom_left c a b

theorem gfmul_zero_right (a : Byte) : gfmul a 0#8 = 0#8 := (gfmul_xorHom_right a).zero

theorem gfmul_zero_left (a : Byte) : gfmul 0#8 a = 0#8 := (gfmul_xorHom_left a).zero

/-- Commutativity (R107): on two powers of x by evaluation. -/
theorem gfmul_comm (a b : Byte) : gfmul a b = gfmul b a := by
  have hpow : ∀ i < 8, ∀ j < 8, gfmul (xPow i) (xPow j) = gfmul (xPow j) (xPow i) := by decide
  refine XorHom.ext (gfmul_xorHom_right a) (gfmul_xorHom_left a) (fun j hj => ?_) b
  exact XorHom.ext (gfmul_xorHom_left _) (gfmul_xorHom_right _) (fun i hi => hpow i hi j hj) a

/-- Doubling a factor doubles the product: on two powers of x by evaluation. -/
theorem gfmul_xtime (a b : Byte) : gfmul a (xtime b) = xtime (gfmul a b) := by
  have hpow : ∀ i < 8, ∀ j < 8,
      gfmul (xPow i) (xtime (xPow j)) = xtime (gfmul (xPow i) (xPow j)) := by decide
  refine XorHom.ext ((gfmul_xorHom_right a).comp xtime_xorHom)
    (xtime_xorHom.comp (gfmul_xorHom_right a)) (fun j hj => ?_) b
  exact XorHom.ext (gfmul_xorHom_left _) (xtime_xorHom.comp (gfmul_xorHom_left _))
    (fun i hi => hpow i hi j hj) a

theorem gfmul_xPow_succ (a : Byte) {i : Nat} (hi : i < 7) :
    gfmul a (xPow (i + 1)) = xtime (gfmul a (xPow i)) := by
  have hpow : ∀ i < 7, xPow (i + 1) = xtime (xPow i) := by decide
  rw [hpow i hi, gfmul_xtime]

theorem gfmul_one (a : Byte) : gfmul a 0x01#8 = a := by
  revert a; decide

/-- The product by a power of x is repeated doubling (R106). -/
theorem gfmul_xPow (a : Byte) {i : Nat} (hi : i < 8) : gfmul a (xPow i) = xtime^[i] a := by
  induction i with
  | zero => exact gfmul_one a
  | succ i ih => rw [gfmul_xPow_succ a (by omega), ih (by omega), Function.iterate_succ_apply']

/-- Associativity (R107): for the third factor a power of x both sides are repeated doubling. -/
theorem gfmul_assoc (a b c : Byte) : gfmul (gfmul a b) c = gfmul a (gfmul b c) := by
  refine XorHom.ext (gfmul_xorHom_right (gfmul a b))
    ((gfmul_xorHom_right a).comp (gfmul_xorHom_right b)) (fun i hi => ?_) c
  have hcomm : Function.Semiconj (gfmul a) xtime xtime := gfmul_xtime a
  rw [Function.comp, gfmul_xPow _ hi, gfmul_xPow _ hi, hcomm.iterate_right i b]

end Sys2Proof.Machine
end

section
/-! SUPPORT for the proofs. The inverse in GF(2^8) and the construction of the S-box
(40_function_units.md section 1). -/

namespace Sys2Proof.Machine

/-- The inverse of the affine map of the S-box's construction. -/
def sboxAffineInv (b : Byte) : Byte :=
  b.rotateLeft 1 ^^^ b.rotateLeft 3 ^^^ b.rotateLeft 6 ^^^ 0x05#8

/-- The inverse in GF(2^8) of a nonzero byte, read off the S-box table (R102). -/
def gfInv (x : Byte) : Byte := sboxAffineInv (sbox x)

theorem sboxAffine_sboxAffineInv (b : Byte) : sboxAffine (sboxAffineInv b) = b := by
  revert b; decide

/-- The table entry is the affine map of the inverse (R102). -/
theorem sbox_eq_sboxAffine (x : Byte) : sbox x = sboxAffine (gfInv x) :=
  (sboxAffine_sboxAffineInv (sbox x)).symm

/-- The table's inverse is one, byte by byte (R102). -/
theorem gfmul_gfInv (x : Byte) (hx : x ≠ 0x00#8) : gfmul x (gfInv x) = 0x01#8 := by
  revert x; decide

/-- A product by the inverse undoes a product. -/
theorem gfmul_gfInv_cancel {x : Byte} (hx : x ≠ 0x00#8) (z : Byte) :
    gfmul (gfInv x) (gfmul x z) = z := by
  rw [← gfmul_assoc, gfmul_comm (gfInv x), gfmul_gfInv x hx, gfmul_comm, gfmul_one]

/-- There are no zero divisors (R107). -/
theorem eq_zero_of_gfmul_eq_zero {a b : Byte} (h : gfmul a b = 0x00#8) :
    a = 0x00#8 ∨ b = 0x00#8 := by
  refine or_iff_not_imp_left.2 fun ha => ?_
  rw [← gfmul_gfInv_cancel ha b, h, gfmul_zero_right]

theorem gfInv_eq_of_gfmul_eq_one {x z : Byte} (h : gfmul x z = 0x01#8) : z = gfInv x := by
  have hx : x ≠ 0x00#8 := by
    rintro rfl
    rw [gfmul_zero_left] at h
    cases h
  rw [← gfmul_gfInv_cancel hx z, h, gfmul_one]

theorem gfInv_eq_zero {x : Byte} (h : gfInv x = 0x00#8) : x = 0x00#8 := by
  by_contra hx
  have hone := gfmul_gfInv x hx
  rw [h, gfmul_zero_right] at hone
  cases hone

/-- A nonzero byte is the only one with its inverse, and zero is the only one sent to zero. -/
theorem gfInv_injective : Function.Injective gfInv := fun x y h => by
  by_cases hy : y = 0x00#8
  · rw [hy, show gfInv 0x00#8 = 0x00#8 by decide] at h
    rw [hy, gfInv_eq_zero h]
  · have hx : x ≠ 0x00#8 := by
      rintro rfl
      exact hy (gfInv_eq_zero (h ▸ by decide))
    have hinv (z : Byte) (hz : z ≠ 0x00#8) : z = gfInv (gfInv z) :=
      gfInv_eq_of_gfmul_eq_one ((gfmul_comm _ _).trans (gfmul_gfInv z hz))
    rw [hinv x hx, h, ← hinv y hy]

/-- Different bytes have different table entries (R102). -/
theorem sbox_injective : Function.Injective sbox := fun _ _ h =>
  gfInv_injective (congrArg sboxAffineInv h)

end Sys2Proof.Machine
end

section
/-! The statements of the function units (40_function_units.md) but the multiplier's definition. -/

namespace Sys2Proof.Machine

/-- Settles O8: the laws by additivity, no zero divisors by the inverses. -/
theorem gfmulLaws : Obligations.GfmulLaws := by
  refine ⟨gfmul_comm, gfmul_xor_right, fun a => ⟨gfmul_zero_right a, gfmul_zero_left a, gfmul_one a,
    gfmul_xPow a (i := 1) (by decide), ?_⟩, fun a b => eq_zero_of_gfmul_eq_zero, by decide⟩
  rw [show 0x03#8 = xPow 1 ^^^ 0x01#8 by decide, gfmul_xor_right,
    gfmul_xPow a (by decide), gfmul_one]
  rfl

/-- Settles O9: additivity leaves the third factor a power of x, where both sides are doublings. -/
theorem gfmulAssociative : Obligations.GfmulAssociative := gfmul_assoc

/-- Settles O10: the inverse is unique because products by it cancel, and the S-box is one to one
because inversion is. -/
theorem sboxMatchesConstruction : Obligations.SboxMatchesConstruction := by
  refine ⟨fun x hx => ⟨gfInv x, gfmul_gfInv x hx, fun z => gfInv_eq_of_gfmul_eq_one,
    sbox_eq_sboxAffine x⟩, by decide, Finite.injective_iff_bijective.1 sbox_injective, by decide,
    by decide, by decide, by decide, by decide⟩

end Sys2Proof.Machine
end

section
/-! SUPPORT for the proofs. Each transformation of a round can be undone, so the block cipher is one
to one on blocks of 16 bytes (42_round_transform.md section 2). -/

namespace Sys2Proof.Machine

/-! The transformations, each on blocks of 16 bytes. -/

theorem eq_of_byteAt_eq {x y : List Byte} (hx : x.length = 16) (hy : y.length = 16)
    (h : ∀ j < 16, byteAt x j = byteAt y j) : x = y := by
  refine List.ext_getElem (hx.trans hy.symm) fun j hjx hjy => ?_
  rw [← byteAt_eq_getElem hjx, ← byteAt_eq_getElem hjy, h j (by omega)]

theorem subBytes_injective : Function.Injective subBytes := List.map_injective_iff.2 sbox_injective

/-- The byte at index i goes to index 13i mod 16 (R142). -/
theorem shiftRows_byteAt (s : List Byte) {i : Nat} (hi : i < 16) :
    byteAt (shiftRows s) (13 * i % 16) = byteAt s i := by
  have hlt : 13 * i % 16 < 16 := by omega
  have hback : 5 * (13 * i % 16) % 16 = i := by omega
  rw [byteAt_eq_getElem (by simpa using hlt)]
  simp only [shiftRows_eq_perm, List.getElem_map, List.getElem_range, hback]

theorem shiftRows_injective {x y : List Byte} (hx : x.length = 16) (hy : y.length = 16)
    (h : shiftRows x = shiftRows y) : x = y :=
  eq_of_byteAt_eq hx hy fun i hi => by rw [← shiftRows_byteAt x hi, h, shiftRows_byteAt y hi]

theorem xorBytes_right_injective {x y k : List Byte} (hx : x.length = k.length)
    (hy : y.length = k.length) (h : xorBytes x k = xorBytes y k) : x = y := by
  rw [← xorBytes_twice hx, h, xorBytes_twice hy]

/-- One output byte of MixColumns of a column that begins, cyclically, with a, b, c, d (R143). -/
def mixed (a b c d : Byte) : Byte := gfmul 0x02#8 a ^^^ gfmul 0x03#8 b ^^^ c ^^^ d

/-- Row 0 of the inverse matrix, 0E 0B 0D 09, times the matrix of MixColumns is the row 1 0 0 0. -/
theorem gfmul_mixed (a b c d : Byte) :
    gfmul 0x0E#8 (mixed a b c d) ^^^ gfmul 0x0B#8 (mixed b c d a) ^^^
      gfmul 0x0D#8 (mixed c d a b) ^^^ gfmul 0x09#8 (mixed d a b c) = a := by
  have ha : gfmul 0x0E#8 0x02#8 ^^^ 0x0B#8 ^^^ 0x0D#8 ^^^ gfmul 0x09#8 0x03#8 = 0x01#8 := by decide
  have hb : gfmul 0x0E#8 0x03#8 ^^^ gfmul 0x0B#8 0x02#8 ^^^ 0x0D#8 ^^^ 0x09#8 = 0x00#8 := by decide
  have hc : 0x0E#8 ^^^ gfmul 0x0B#8 0x03#8 ^^^ gfmul 0x0D#8 0x02#8 ^^^ 0x09#8 = 0x00#8 := by decide
  have hd : 0x0E#8 ^^^ gfmul 0x0D#8 0x03#8 ^^^ 0x0B#8 ^^^ gfmul 0x09#8 0x02#8 = 0x00#8 := by decide
  calc
    _ = gfmul (gfmul 0x0E#8 0x02#8 ^^^ 0x0B#8 ^^^ 0x0D#8 ^^^ gfmul 0x09#8 0x03#8) a ^^^
        gfmul (gfmul 0x0E#8 0x03#8 ^^^ gfmul 0x0B#8 0x02#8 ^^^ 0x0D#8 ^^^ 0x09#8) b ^^^
        gfmul (0x0E#8 ^^^ gfmul 0x0B#8 0x03#8 ^^^ gfmul 0x0D#8 0x02#8 ^^^ 0x09#8) c ^^^
        gfmul (0x0E#8 ^^^ gfmul 0x0D#8 0x03#8 ^^^ 0x0B#8 ^^^ gfmul 0x09#8 0x02#8) d := by
      simp only [mixed, gfmul_xor_right, gfmul_xor_left, gfmul_assoc]
      ac_rfl
    _ = a := by
      rw [ha, hb, hc, hd, gfmul_comm, gfmul_one]
      simp only [gfmul_zero_left, BitVec.xor_zero]

/-- Each byte of a block from the column that MixColumns makes of its column (R143). -/
theorem gfmul_mixByte (s : List Byte) (c : Nat) {r : Nat} (hr : r < 4) :
    gfmul 0x0E#8 (mixByte s c r) ^^^ gfmul 0x0B#8 (mixByte s c ((r + 1) % 4)) ^^^
      gfmul 0x0D#8 (mixByte s c ((r + 2) % 4)) ^^^ gfmul 0x09#8 (mixByte s c ((r + 3) % 4)) =
        byteAt s (c + r) := by
  have hrow (k : Nat) : mixByte s c ((r + k) % 4) = mixed (byteAt s (c + (r + k) % 4))
      (byteAt s (c + (r + (k + 1)) % 4)) (byteAt s (c + (r + (k + 2)) % 4))
      (byteAt s (c + (r + (k + 3)) % 4)) := by
    simp only [mixByte, mixed, Nat.mod_add_mod, Nat.add_assoc]
  have h := gfmul_mixed (byteAt s (c + r)) (byteAt s (c + (r + 1) % 4))
    (byteAt s (c + (r + 2) % 4)) (byteAt s (c + (r + 3) % 4))
  have hwrap (k : Nat) : (r + (k + 4)) % 4 = (r + k) % 4 := by omega
  have hrow0 : mixByte s c r = mixed (byteAt s (c + r)) (byteAt s (c + (r + 1) % 4))
      (byteAt s (c + (r + 2) % 4)) (byteAt s (c + (r + 3) % 4)) := rfl
  rw [hrow0, hrow 1, hrow 2, hrow 3]
  simpa only [Nat.reduceAdd, hwrap 0, hwrap 1, hwrap 2, Nat.add_zero, Nat.mod_eq_of_lt hr] using h

/-- The byte of MixColumns at row r, column c (R143). -/
theorem mixColumns_byteAt (s : List Byte) {r c : Nat} (hr : r < 4) (hc : c < 4) :
    byteAt (mixColumns s) (4 * c + r) = mixByte s (4 * c) r :=
  byteAt_of_getElem? (mixColumns_getElem? s hr hc)

theorem mixColumns_injective {x y : List Byte} (hx : x.length = 16) (hy : y.length = 16)
    (h : mixColumns x = mixColumns y) : x = y := by
  have hmix (r c : Nat) (hr : r < 4) (hc : c < 4) : mixByte x (4 * c) r = mixByte y (4 * c) r := by
    rw [← mixColumns_byteAt x hr hc, h, mixColumns_byteAt y hr hc]
  refine eq_of_byteAt_eq hx hy fun j hj => ?_
  have hr : j % 4 < 4 := by omega
  have hc : j / 4 < 4 := by omega
  rw [← Nat.div_add_mod j 4, ← gfmul_mixByte x _ hr, ← gfmul_mixByte y _ hr, hmix _ _ hr hc,
    hmix ((j % 4 + 1) % 4) _ (by omega) hc, hmix ((j % 4 + 2) % 4) _ (by omega) hc,
    hmix ((j % 4 + 3) % 4) _ (by omega) hc]

/-! The rounds. -/

section
variable {x y k : List Byte} (hx : x.length = 16) (hy : y.length = 16) (hk : k.length = 16)
include hx hy hk

theorem addRoundKey_injective (h : addRoundKey x k = addRoundKey y k) : x = y :=
  xorBytes_right_injective (hx.trans hk.symm) (hy.trans hk.symm) h

theorem finalRound_injective (h : finalRound x k = finalRound y k) : x = y := by
  have hshift := addRoundKey_injective (shiftRows_length _) (shiftRows_length _) hk h
  exact subBytes_injective (shiftRows_injective ((subBytes_length x).trans hx)
    ((subBytes_length y).trans hy) hshift)

theorem fullRound_injective (h : fullRound x k = fullRound y k) : x = y := by
  have hmix := addRoundKey_injective (mixColumns_length _) (mixColumns_length _) hk h
  have hshift := mixColumns_injective (shiftRows_length _) (shiftRows_length _) hmix
  exact subBytes_injective (shiftRows_injective ((subBytes_length x).trans hx)
    ((subBytes_length y).trans hy) hshift)

end

section
variable {rk x y : List Byte} (hrk : rk.length = 176) (hx : x.length = 16) (hy : y.length = 16)
include hrk hx hy

theorem afterRounds_injective {n : Nat} (hn : n ≤ 9)
    (h : afterRounds x rk n = afterRounds y rk n) : x = y := by
  induction n with
  | zero => exact addRoundKey_injective hx hy (roundKey_length hrk (by decide)) h
  | succ n ih =>
    rw [afterRounds_succ, afterRounds_succ] at h
    exact ih (by omega) (fullRound_injective (afterRounds_length hx hrk (by omega))
      (afterRounds_length hy hrk (by omega)) (roundKey_length hrk (by omega)) h)

theorem encblock_injective (h : encblock x rk = encblock y rk) : x = y := by
  rw [encblock_eq_finalRound, encblock_eq_finalRound] at h
  exact afterRounds_injective hrk hx hy le_rfl
    (finalRound_injective (afterRounds_length hx hrk le_rfl) (afterRounds_length hy hrk le_rfl)
      (roundKey_length hrk le_rfl) h)

end

end Sys2Proof.Machine
end

section
/-! SUPPORT for the proofs. How a difference spreads along the chain of CBC (44_cbc_controller.md
section 5). -/

namespace Sys2Proof.Machine

theorem encblock_length {rk x : List Byte} (hrk : rk.length = 176) : (encblock x rk).length = 16 :=
  addRoundKey_length (shiftRows_length _) (roundKey_length hrk le_rfl)

theorem xorBytes_comm (a b : List Byte) : xorBytes a b = xorBytes b a :=
  List.zipWith_comm_of_comm BitVec.xor_comm

/-- Different inputs to the cipher, by the plaintext block or by the chain, give different
blocks. -/
theorem encblock_xorBytes_injective_left {rk p q c : List Byte} (hrk : rk.length = 176)
    (hp : p.length = 16) (hq : q.length = 16) (hc : c.length = 16)
    (h : encblock (xorBytes p c) rk = encblock (xorBytes q c) rk) : p = q :=
  xorBytes_right_injective (hp.trans hc.symm) (hq.trans hc.symm)
    (encblock_injective hrk (by simp [hp, hc]) (by simp [hq, hc]) h)

theorem encblock_xorBytes_injective_right {rk p c d : List Byte} (hrk : rk.length = 176)
    (hp : p.length = 16) (hc : c.length = 16) (hd : d.length = 16)
    (h : encblock (xorBytes p c) rk = encblock (xorBytes p d) rk) : c = d := by
  rw [xorBytes_comm p, xorBytes_comm p] at h
  exact encblock_xorBytes_injective_left hrk hc hd hp h

/-- Two chains that begin with different inputs differ in every block. -/
theorem cbcBlocks_ne_of_chain_ne {rk c d : List Byte} {ps : List (List Byte)}
    (hrk : rk.length = 176) (hc : c.length = 16) (hd : d.length = 16)
    (hps : ∀ p ∈ ps, p.length = 16) (hne : c ≠ d) {j : Nat} (hj : j < ps.length) :
    (cbcBlocks rk c ps)[j]? ≠ (cbcBlocks rk d ps)[j]? := by
  induction ps generalizing c d j with
  | nil => exact absurd hj (Nat.not_lt_zero j)
  | cons p ps ih =>
    have hhead : encblock (xorBytes p c) rk ≠ encblock (xorBytes p d) rk := fun h =>
      hne (encblock_xorBytes_injective_right hrk (hps p List.mem_cons_self) hc hd h)
    cases j with
    | zero => exact fun h => hhead (Option.some.inj h)
    | succ j =>
      exact ih (encblock_length hrk) (encblock_length hrk)
        (fun q hq => hps q (List.mem_cons_of_mem p hq)) hhead (Nat.lt_of_succ_lt_succ hj)

/-- Plaintexts that agree before block i give ciphertexts that do. -/
theorem cbcBlocks_eq_before {rk c : List Byte} {ps qs : List (List Byte)} {i j : Nat}
    (hlen : ps.length = qs.length) (h : ∀ k < i, ps[k]? = qs[k]?) (hj : j < i) :
    (cbcBlocks rk c ps)[j]? = (cbcBlocks rk c qs)[j]? := by
  induction ps generalizing c qs i j with
  | nil => rw [List.length_eq_zero_iff.1 hlen.symm]
  | cons p ps ih =>
    obtain ⟨q, qs, rfl⟩ := List.exists_cons_of_length_eq_add_one hlen.symm
    obtain rfl : p = q := Option.some.inj (h 0 (by omega))
    cases j with
    | zero => rfl
    | succ j =>
      exact ih (Nat.succ.inj hlen) (i := i - 1) (fun k hk => h (k + 1) (by omega)) (by omega)

/-- Plaintexts that differ in block i alone give ciphertexts that differ from block i on: there the
cipher's inputs differ, and after it the chains do. -/
theorem cbcBlocks_ne_from {rk c : List Byte} {ps qs : List (List Byte)} {i j : Nat}
    (hrk : rk.length = 176) (hc : c.length = 16) (hps : ∀ p ∈ ps, p.length = 16)
    (hqs : ∀ q ∈ qs, q.length = 16) (hlen : ps.length = qs.length) (hne : ps[i]? ≠ qs[i]?)
    (heq : ∀ k, k ≠ i → ps[k]? = qs[k]?) (hij : i ≤ j) (hj : j < ps.length) :
    (cbcBlocks rk c ps)[j]? ≠ (cbcBlocks rk c qs)[j]? := by
  induction ps generalizing c qs i j with
  | nil => exact absurd hj (Nat.not_lt_zero j)
  | cons p ps ih =>
    obtain ⟨q, qs, rfl⟩ := List.exists_cons_of_length_eq_add_one hlen.symm
    rw [List.forall_mem_cons] at hps hqs
    obtain ⟨hp, hps⟩ := hps
    obtain ⟨hq, hqs⟩ := hqs
    cases i with
    | zero =>
      obtain rfl : ps = qs := List.ext_getElem? fun k => heq (k + 1) (by omega)
      have hhead : encblock (xorBytes p c) rk ≠ encblock (xorBytes q c) rk := fun h =>
        hne (congrArg some (encblock_xorBytes_injective_left hrk hp hq hc h))
      cases j with
      | zero => exact fun h => hhead (Option.some.inj h)
      | succ j =>
        exact cbcBlocks_ne_of_chain_ne hrk (encblock_length hrk) (encblock_length hrk) hps hhead
          (Nat.lt_of_succ_lt_succ hj)
    | succ i =>
      obtain rfl : p = q := Option.some.inj (heq 0 (by omega))
      obtain ⟨j, rfl⟩ := Nat.exists_eq_add_of_le' (Nat.lt_of_lt_of_le i.succ_pos hij)
      exact ih (encblock_length hrk) hps hqs (Nat.succ.inj hlen) hne
        (fun k hk => heq (k + 1) (by omega)) (by omega) (Nat.lt_of_succ_lt_succ hj)

end Sys2Proof.Machine
end

section
/-! The statements of the round constants, the block cipher and the chain. -/

namespace Sys2Proof.Machine

/-- Settles O14, by evaluation of the eleven constants. -/
theorem roundConstantSequence : Obligations.RoundConstantSequence := by
  unfold Obligations.RoundConstantSequence
  decide

/-- Settles O22: every transformation of the cipher is one to one on blocks. -/
theorem blockCipherInjective : Obligations.BlockCipherInjective :=
  fun _ _ _ hrk hx hy => encblock_injective hrk hx hy

/-- Settles O38. -/
theorem chainingPropagation : Obligations.ChainingPropagation :=
  fun _ _ _ _ _ hrk hiv hps hqs hlen _ hne heq =>
    ⟨fun _ hj => cbcBlocks_eq_before hlen (fun k hk => heq k (by omega)) hj,
      fun _ => cbcBlocks_ne_from hrk hiv hps hqs hlen hne heq⟩

/-- Settles O39: the IV is the chain's first input. -/
theorem ivSensitivity : Obligations.IvSensitivity :=
  fun _ _ _ _ hrk hiv hiv' hps hne _ => cbcBlocks_ne_of_chain_ne hrk hiv hiv' hps hne

end Sys2Proof.Machine
end

section
/-! SUPPORT for the proofs. What each instruction may change, as equations of states, and the step
of an ENV_FAIL event (41, 42, 44; 60_exceptions.md section 1). -/

namespace Sys2Proof.Machine

/-! Frames. -/

theorem UnchangedMemory.of_mem_eq {s t : State} (h : t.mem = s.mem) : UnchangedMemory s t :=
  fun x => by rw [h]

theorem transformS_frame {f : List Byte → List Byte} {p : Nibble} {s t : State}
    (h : transformS f p s = .next t) :
    t = { s with regS := t.regS, ph := t.ph } ∧ UnchangedMemory s t := by
  obtain ⟨b, -, rfl⟩ := transformS_eq_next.1 h
  exact ⟨rfl, .of_mem_eq rfl⟩

theorem execArk_frame {k : Nibble} {s t : State} (h : execArk k s = .next t) :
    t = { s with regS := t.regS, ph := t.ph, rnd := t.rnd } ∧ UnchangedMemory s t := by
  obtain ⟨-, -, b, key, -, -, rfl⟩ := execArk_eq_next.1 h
  rw [arkNext_eq]
  exact ⟨rfl, .of_mem_eq rfl⟩

theorem execKld_frame {s t : State} (h : execKld s = .next t) :
    t = { s with rkv := t.rkv, rk := t.rk, rcon := t.rcon, ph := t.ph, kpos := t.kpos } ∧
      (∀ j, 16 ≤ j → t.rk.getD j none = s.rk.getD j none) ∧ UnchangedMemory s t := by
  obtain ⟨key, hkey, rfl⟩ := execKld_eq_next.1 h
  have hlen := memRead_length hkey
  exact ⟨rfl, fun j hj => writeFile_getD_outside _ _ _ (by omega), .of_mem_eq rfl⟩

theorem execKxw_frame {s t : State} (h : execKxw s = .next t) :
    t = { s with
        regW := t.regW, rk := t.rk, rcon := t.rcon, rkv := t.rkv, ph := t.ph, blk := t.blk,
        kpos := t.kpos } ∧
      (∀ j, j < s.kpos.toNat ∨ s.kpos.toNat + 4 ≤ j → t.rk.getD j none = s.rk.getD j none) ∧
      UnchangedMemory s t := by
  obtain ⟨-, prev, wr, back, hprev, hwr, hback, hnext⟩ := execKxw_eq_next.1 h
  have hnew := kxw_new_length hprev hwr hback
  have hrk (j : Nat) (hj : j < s.kpos.toNat ∨ s.kpos.toNat + 4 ≤ j) :
      (writeFile s.rk s.kpos.toNat (xorBytes wr.1 back)).getD j none = s.rk.getD j none :=
    writeFile_getD_outside _ _ _ (by omega)
  obtain ⟨-, rfl⟩ | ⟨-, n, -, rfl⟩ := kxwNext_eq_next.1 hnext
  · exact ⟨rfl, hrk, .of_mem_eq rfl⟩
  · exact ⟨rfl, hrk, .of_mem_eq rfl⟩

theorem execEncrypt_frame {s t : State} (h : execEncrypt s = .next t) :
    t = { s with
        err := t.err, done := t.done, busy := t.busy, ph := t.ph, blk := t.blk, rnd := t.rnd,
        kpos := t.kpos } ∧ UnchangedMemory s t := by
  obtain ⟨-, -, rfl⟩ := execEncrypt_eq_next.1 h
  exact ⟨rfl, .of_mem_eq rfl⟩

theorem execChk_frame {s t : State} (h : execChk s = .next t) :
    t = { s with err := t.err, nblk := t.nblk, ph := t.ph } ∧ UnchangedMemory s t := by
  obtain ⟨-, rfl⟩ | ⟨-, -, rfl⟩ | ⟨-, -, -, -, rfl⟩ := execChk_eq_next.1 h <;>
    exact ⟨rfl, .of_mem_eq rfl⟩

theorem execCbx_frame {s t : State} (h : execCbx s = .next t) :
    t = { s with regS := t.regS, ph := t.ph, rnd := t.rnd } ∧ UnchangedMemory s t := by
  obtain ⟨-, p, c, -, -, rfl⟩ := execCbx_eq_next.1 h
  exact ⟨rfl, .of_mem_eq rfl⟩

theorem execBst_frame {s t : State} (h : execBst s = .next t) :
    t = { s with mem := t.mem, ph := t.ph, blk := t.blk } ∧
      UnchangedOutside s t (blockAddr (s.readDesc .ctAddr) s.blk) 16 := by
  obtain ⟨b, n, hb, -, -, rfl⟩ := execBst_eq_next.1 h
  exact ⟨rfl, fun x hx => Memory.read_writeSeq_outside _ _ _ (by rwa [readFile_length hb])⟩

theorem execFin_frame {s t : State} (h : execFin s = .next t) :
    t = { s with
        regS := t.regS, regW := t.regW, rcon := t.rcon, rk := t.rk, nblk := t.nblk, rkv := t.rkv,
        busy := t.busy, done := t.done, ph := t.ph, blk := t.blk, rnd := t.rnd, kpos := t.kpos,
        mem := t.mem, draws := t.draws } ∧
      UnchangedOutside s t (s.readDesc .ctAddr + s.readDesc .ptLen) 176 ∧
      (s.errPastChk = false → UnchangedMemory s t) := by
  obtain ⟨u, hu, rfl⟩ := execFin_eq_next.1 h
  obtain ⟨herr, -, rfl⟩ | ⟨-, rfl⟩ := finScratch_eq_ok.1 hu
  · -- The frame holds of draws of any number; that it is 176 plays no part.
    generalize 176 = n
    exact ⟨rfl, fun x hx => spoil_read_outside s _ _ hx, fun hno => by simp [herr] at hno⟩
  · exact ⟨rfl, fun _ _ => rfl, fun _ => .of_mem_eq rfl⟩

/-! The event. -/

/-- With ENV_FAIL high inside KLD .. BST the engine's turn is the event (R203; log 20). -/
theorem step_eq_envFailEvent {s : State} (turn : EngineTurn s) (level : s.envFail = true)
    (hph : 2 ≤ s.ph.toNat ∧ s.ph.toNat ≤ 9) : step s = envFailEvent s.popped := by
  have hidle : s.popped.ph ≠ Op.idle := by
    rw [State.popped_ph]
    bv_omega
  have hwindow : s.popped.envFailWindow = true := envFailWindow_iff.2 hph
  rw [step_eq_serve, engineTurn_iff.1 turn, serve, engineMove, if_neg hidle, State.popped_envFail,
    level, hwindow, Bool.and_self, if_pos rfl]

/-- What the step of an event does when it answers (R203). -/
theorem envFail_step_cases {s t : State} (turn : EngineTurn s) (level : s.envFail = true)
    (hph : 2 ≤ s.ph.toNat ∧ s.ph.toNat ≤ 9) (h : step s = .next t) :
    t = (s.popped.spoil (s.readDesc .ctAddr) (s.readDesc .ptLen + 176)).raise
      Err.executionEnvironmentFailure := by
  rw [step_eq_envFailEvent turn level hph] at h
  exact (envFailEvent_eq_next.1 h).2

/-! The next position. -/

/-- CTL: the phase, the block, the round and the byte position (R29). -/
def State.position (s : State) : Nibble × Nat × Nibble × Byte := (s.ph, s.blk, s.rnd, s.kpos)

theorem execChk_position {s t : State} (hs : s.err = 0#4) (h : execChk s = .next t) :
    t.position = (if t.err ≠ 0#4 then Op.fin else Op.kld, s.blk, s.rnd, s.kpos) := by
  obtain ⟨-, rfl⟩ | ⟨-, -, rfl⟩ | ⟨-, -, -, -, rfl⟩ := execChk_eq_next.1 h
  · rfl
  · rfl
  · simp only [State.position, hs, ne_eq, not_true, if_false]

theorem execKxw_position {s t : State} (h : execKxw s = .next t) :
    (s.kpos.toNat + 4 < 176 → t.position = (s.ph, s.blk, s.rnd, s.kpos + 4#8)) ∧
      (s.kpos.toNat + 4 = 176 → ∀ n ∈ s.nblk,
        t.position = (if 0 < n then Op.cbx else Op.fin, 0, s.rnd, 176#8)) := by
  obtain ⟨-, prev, wr, back, -, -, -, hnext⟩ := execKxw_eq_next.1 h
  obtain ⟨hlt, rfl⟩ | ⟨hlast, n, hn, rfl⟩ := kxwNext_eq_next.1 hnext
  · have hkpos : BitVec.ofNat 8 (s.kpos.toNat + 4) = s.kpos + 4#8 := by bv_omega
    refine ⟨fun _ => ?_, fun heq => absurd heq (by omega)⟩
    rw [← hkpos]
    rfl
  · refine ⟨fun hlt => absurd hlt hlast, fun _ m hm => ?_⟩
    obtain rfl : n = m := Option.some.inj (hn.symm.trans hm)
    rfl

theorem execArk_position {k : Nibble} {s t : State} (h : execArk k s = .next t) :
    t.position = (if s.rnd.toNat < 10 then Op.sub else Op.bst, s.blk,
      if s.rnd.toNat < 10 then s.rnd + 1#4 else s.rnd, s.kpos) := by
  obtain ⟨-, -, b, key, -, -, rfl⟩ := execArk_eq_next.1 h
  rw [arkNext_eq]
  rfl

theorem transformS_position {f : List Byte → List Byte} {p : Nibble} {s t : State}
    (h : transformS f p s = .next t) : t.position = (p, s.blk, s.rnd, s.kpos) := by
  obtain ⟨b, -, rfl⟩ := transformS_eq_next.1 h
  rfl

theorem execBst_position {s t : State} (h : execBst s = .next t) (n : Nat) (hn : n ∈ s.nblk) :
    t.position = (if s.blk + 1 < n then Op.cbx else Op.fin, s.blk + 1, s.rnd, s.kpos) := by
  obtain ⟨b, m, -, hm, -, rfl⟩ := execBst_eq_next.1 h
  obtain rfl : m = n := Option.some.inj (hm.symm.trans hn)
  rfl

end Sys2Proof.Machine
end

section
/-! The statements of the frames and of the next position (30_encoding.md section 5). -/

namespace Sys2Proof.Machine

/-- Settles O20, operation by operation. -/
theorem roundTransformFrame : Obligations.RoundTransformFrame := fun _ _ =>
  ⟨fun h => h.elim transformS_frame fun h => h.elim transformS_frame transformS_frame,
    fun _ => execArk_frame⟩

/-- Settles O31, operation by operation. -/
theorem keySchedulerFrame : Obligations.KeySchedulerFrame := fun _ _ =>
  ⟨execKld_frame, execKxw_frame⟩

/-- Settles O32, operation by operation. -/
theorem cbcControllerFrame : Obligations.CbcControllerFrame := fun _ _ =>
  ⟨execEncrypt_frame, execChk_frame, execCbx_frame, execBst_frame, execFin_frame⟩

/-- Settles O30, row by row. -/
theorem nextPositionTable : Obligations.NextPositionTable := by
  intro s t
  refine ⟨fun h => ?_, fun h hs => execChk_position hs h, fun h => ?_,
    fun h => (execKxw_position h).1, fun h => (execKxw_position h).2, fun h => ?_,
    fun k h hlt => ?_, fun k h hlast => ?_,
    transformS_position, transformS_position, transformS_position, execBst_position, fun h => ?_,
    fun h turn level h2 h9 => ?_⟩
  case refine_1 =>
    obtain ⟨-, -, rfl⟩ := execEncrypt_eq_next.1 h
    rfl
  case refine_2 =>
    obtain ⟨key, -, rfl⟩ := execKld_eq_next.1 h
    rfl
  case refine_3 =>
    obtain ⟨-, p, c, -, -, rfl⟩ := execCbx_eq_next.1 h
    rfl
  case refine_4 => exact (execArk_position h).trans (by rw [if_pos hlt, if_pos hlt])
  case refine_5 => exact (execArk_position h).trans (by rw [hlast]; rfl)
  case refine_6 =>
    obtain ⟨u, -, rfl⟩ := execFin_eq_next.1 h
    rfl
  case refine_7 =>
    rw [envFail_step_cases turn level ⟨h2, h9⟩ h]
    rfl

end Sys2Proof.Machine
end

section
/-! SUPPORT for the proofs. Under the invariant every micro-operation of the phase answers, but
for a CHK whose launch premises fail (R56, R86, R214). -/

namespace Sys2Proof.Machine

/-! What the invariant says of the descriptor. -/

/-- The registers of a call past CHK, and the addresses that its launch premises make exist
(R56). -/
theorem PastChk.layout {s : State} (h : PastChk s) :
    ∃ pt n key iv ct, (s.ptAddr = some pt ∧ s.ptLen = some n ∧ s.keyAddr = some key ∧
        s.ivAddr = some iv ∧ s.ctAddr = some ct) ∧ s.nblk = some (n / 16) ∧ n % 16 = 0 ∧
      pt + n ≤ 2 ^ s.cfg.addrW ∧ ct + n + 176 ≤ 2 ^ s.cfg.addrW ∧ key + 16 ≤ 2 ^ s.cfg.addrW ∧
      iv + 16 ≤ 2 ^ s.cfg.addrW := by
  obtain ⟨pt, n, key, iv, ct, ⟨hpt, hn, hkey, -, hiv, -, hct⟩, hlen, hok⟩ :=
    launched_iff.1 h.launched
  obtain ⟨hptExist, hctExist, hkeyExist, hivExist, -⟩ := buffersOk_iff.1 hok
  exact ⟨pt, n, key, iv, ct, ⟨hpt, hn, hkey, hiv, hct⟩, by rw [h.nblk_eq, hn]; rfl, hlen, hptExist,
    hctExist, hkeyExist, hivExist⟩

/-- The block in progress lies inside the call's length (R31, R176). -/
theorem BlockReady.blk_fits {s : State} (h : BlockReady s) {n : Nat} (hn : s.nblk = some (n / 16)) :
    16 * s.blk + 16 ≤ n := by
  have := h.blk_lt _ hn
  omega

/-! The micro-operations answer. -/

theorem exists_readFile_of_allHeld {f : ByteFile} (h : allHeld f) {i n : Nat}
    (hf : i + n ≤ f.length) : ∃ bs, readFile f i n = .ok bs :=
  exists_readFile_eq_ok fun j _ hj => allHeld_iff.1 h j (by omega)

/-- CHK of a written descriptor answers, or refuses the launch (R56, R176). -/
theorem execChk_answers {s : State} (h : s.descWritten = true) :
    (∃ t, execChk s = .next t) ∨ execChk s = .refused .launchPremise := by
  have hreg (d : Desc) := desc_eq_readDesc h d
  rw [execChk_of_desc (hreg .ptAddr) (hreg .ptLen) (hreg .keyAddr) (hreg .keyLen) (hreg .ivAddr)
    (hreg .ivLen) (hreg .ctAddr)]
  split
  · exact .inl ⟨_, rfl⟩
  · split
    · exact .inl ⟨_, rfl⟩
    · split
      · exact .inl ⟨_, rfl⟩
      · exact .inr rfl

theorem execKld_answers {s : State} (h : PastChk s) : ∃ t, execKld s = .next t := by
  obtain ⟨pt, n, key, iv, ct, ⟨-, -, hkey, -⟩, -, -, -, -, hexist, -⟩ := h.layout
  exact ⟨_, execKld_of_keyAddr hkey hexist⟩

/-- The word step of KXW answers when RCON holds a value (R123). -/
theorem exists_kxwWord_eq_ok (p : Nat) (prev : List Byte) {rcon : Option Byte}
    (h : rcon.isSome = true) : ∃ wr, kxwWord p prev rcon = .ok wr := by
  obtain ⟨r, hr⟩ := Option.isSome_iff_exists.1 h
  by_cases hp : p % 16 = 0
  · exact ⟨_, kxwWord_of_boundary prev hp hr⟩
  · exact ⟨_, kxwWord_of_not_boundary prev rcon hp⟩

theorem execKxw_answers {s : State} (h : Consistent s) (hrk : s.rk.length = 176)
    (hph : s.ph = Op.kxw) : ∃ t, execKxw s = .next t := by
  obtain ⟨h172, hrcon, hheld⟩ := h.kxw_ready hph
  obtain ⟨h16, -, h4⟩ := h.kpos_ok
  have hpos : kposOk s.kpos.toNat = true := kposOk_iff.2 ⟨h16, h172, h4⟩
  rw [allHeld_take_iff (by omega)] at hheld
  obtain ⟨prev, hprev⟩ := exists_readFile_eq_ok (f := s.rk) (i := s.kpos.toNat - 4) (n := 4)
    fun j _ _ => hheld j (by omega)
  obtain ⟨back, hback⟩ := exists_readFile_eq_ok (f := s.rk) (i := s.kpos.toNat - 16) (n := 4)
    fun j _ _ => hheld j (by omega)
  obtain ⟨wr, hwr⟩ := exists_kxwWord_eq_ok s.kpos.toNat prev hrcon
  obtain ⟨pt, n, key, iv, ct, -, hn, -⟩ := (h.pastChk (by simp [hph])).layout
  rw [execKxw_of_reads rfl hpos hprev hwr hback]
  exact ⟨_, kxwNext_of_kposOk hpos fun _ => hn⟩

theorem execCbx_answers {s : State} (h : BlockReady s) : ∃ t, execCbx s = .next t := by
  obtain ⟨pt, n, key, iv, ct, ⟨hpt, -, -, hiv, hct⟩, hn, -, hptExist, hctExist, -, hivExist⟩ :=
    h.layout
  have hfits := h.blk_fits hn
  have hptRead : s.readDesc .ptAddr = pt := readDesc_of_some hpt
  have hchain : ∃ c, readChain s.blk s = .ok c := by
    by_cases hzero : s.blk = 0
    · exact ⟨_, readChain_of_desc (base := iv) (by rw [if_pos hzero, hiv])
        (by rw [if_pos hzero]; exact hivExist)⟩
    · exact ⟨_, readChain_of_desc (base := ct) (by rw [if_neg hzero, hct])
        (by rw [if_neg hzero]; omega)⟩
  obtain ⟨c, hc⟩ := hchain
  refine ⟨_, execCbx_eq_next.2 ⟨h.rkv, _, c, memRead_eq_ok.2 ⟨?_, rfl⟩, hc, rfl⟩⟩
  rw [hptRead, blockAddr]
  omega

theorem execArk_answers {k : Nibble} {s : State} (hk : k.toNat ≤ 10) (h : BlockReady s)
    (hrk : s.rk.length = 176) (hSlen : s.regS.length = 16) (hS : allHeld s.regS) :
    ∃ t, execArk k s = .next t := by
  obtain ⟨b, hb⟩ := exists_readFile_of_allHeld hS (i := 0) (n := 16) (by omega)
  obtain ⟨key, hkey⟩ := exists_readFile_of_allHeld h.rk_held (i := 16 * k.toNat) (n := 16)
    (by omega)
  exact ⟨_, execArk_eq_next.2 ⟨hk, h.rkv, b, key, hb, hkey, rfl⟩⟩

theorem transformS_answers (f : List Byte → List Byte) (p : Nibble) {s : State}
    (hlen : s.regS.length = 16) (hS : allHeld s.regS) : ∃ t, transformS f p s = .next t := by
  obtain ⟨b, hb⟩ := exists_readFile_of_allHeld hS (i := 0) (n := 16) (by omega)
  exact ⟨_, transformS_eq_next.2 ⟨b, hb, rfl⟩⟩

theorem execBst_answers {s : State} (h : BlockReady s) (hlen : s.regS.length = 16)
    (hS : allHeld s.regS) : ∃ t, execBst s = .next t := by
  obtain ⟨b, hb⟩ := exists_readFile_of_allHeld hS (i := 0) (n := 16) (by omega)
  obtain ⟨pt, n, key, iv, ct, ⟨-, -, -, -, hct⟩, hn, -, -, hctExist, -⟩ := h.layout
  have hfits := h.blk_fits hn
  refine ⟨_, execBst_eq_next.2 ⟨b, _, hb, hn, ?_, rfl⟩⟩
  rw [readDesc_of_some (d := .ctAddr) hct, blockAddr]
  omega

theorem execFin_answers {s : State} (h : Consistent s) (hph : s.ph = Op.fin) :
    ∃ t, execFin s = .next t := by
  cases herr : s.errPastChk with
  | false => exact ⟨_, execFin_of_not_errPastChk herr⟩
  | true =>
    obtain ⟨pt, n, key, iv, ct, ⟨-, hn, -, -, -, -, hct⟩, -, hok⟩ :=
      launched_iff.1 (h.launched (pastChkPos_iff.2 (.inr ⟨hph, herr⟩)))
    exact ⟨_, execFin_of_errPastChk herr hct hn (buffersOk_iff.1 hok).2.1⟩

/-- Under the invariant the operation of the phase answers, but for a launch that CHK refuses. -/
theorem exec_answers {i : Instr} {s : State} (h : Inv s) (hwf : i.wf = true)
    (hidle : s.ph ≠ Op.idle) (hph : s.ph = opField (encode i)) :
    (∃ t, exec i s = .next t) ∨ (exec i s = .refused .launchPremise ∧ s.ph = Op.chk) := by
  have hrk := h.shape.rk_len
  have hlen := h.shape.regS_len
  have hc := h.consistent
  cases i with
  | encrypt => exact absurd hph hidle
  | chk => exact (execChk_answers (hc.desc_written hidle)).imp_right fun hr => ⟨hr, hph⟩
  | kld => exact .inl (execKld_answers (hc.pastChk (by rw [hph]; decide)))
  | kxw => exact .inl (execKxw_answers hc hrk hph)
  | cbx => exact .inl (execCbx_answers (hc.blockReady (by rw [hph]; decide)))
  | ark k =>
    have hark : s.ph = Op.ark := hph.trans (opField_microWord _ _)
    exact .inl (execArk_answers (of_decide_eq_true hwf) (hc.blockReady (by rw [hark]; decide)) hrk
      hlen (hc.regS_held (by rw [hark]; decide)))
  | sub => exact .inl (transformS_answers _ _ hlen (hc.regS_held (by rw [hph]; decide)))
  | shr => exact .inl (transformS_answers _ _ hlen (hc.regS_held (by rw [hph]; decide)))
  | mix => exact .inl (transformS_answers _ _ hlen (hc.regS_held (by rw [hph]; decide)))
  | bst =>
    exact .inl (execBst_answers (hc.blockReady (by rw [hph]; decide)) hlen
      (hc.regS_held (by rw [hph]; decide)))
  | fin => exact .inl (execFin_answers hc hph)

/-! The engine's turn. -/

/-- Every position of the fixed order issues a valid word (R83, R87). -/
theorem exists_decode_issued {s : State} (h : Consistent s) (hidle : s.ph ≠ Op.idle) :
    ∃ i, decodeMicro s.issued = .ok i := by
  by_cases hark : s.ph = Op.ark
  · rw [State.issued, if_pos hark, hark, decodeMicro_microWord_ark, if_pos h.rnd_le]
    exact ⟨_, rfl⟩
  · have hvalid : ∀ p : Nibble, p ≠ Op.idle → p ≠ Op.ark → p.toNat ≤ 0xA →
        (decodeMicro (microWord p 0#4)).isOk = true := by decide
    rw [issued_of_ph rfl hark]
    cases hd : decodeMicro (microWord s.ph 0#4) with
    | ok i => exact ⟨i, rfl⟩
    | error r =>
      have hok := hvalid s.ph hidle hark h.ph_le
      rw [hd] at hok
      cases hok

/-- Under the invariant the ENV_FAIL event answers (R203). -/
theorem envFailEvent_answers {s : State} (h : PastChk s) : ∃ t, envFailEvent s = .next t := by
  obtain ⟨pt, n, key, iv, ct, ⟨-, hn, -, -, hct⟩, -, -, -, hexist, -⟩ := h.layout
  refine ⟨_, envFailEvent_eq_next.2 ⟨?_, rfl⟩⟩
  rw [readDesc_of_some (d := .ctAddr) hct, readDesc_of_some (d := .ptLen) hn]
  omega

theorem Inv.popped {s : State} (h : Inv s) : Inv s.popped := ⟨h.shape.popped, h.consistent.popped⟩

/-- Under the invariant the engine's turn answers, but for a launch that CHK refuses. -/
theorem engineMove_answers {s : State} (h : Inv s) :
    (∃ t, engineMove s = .next t) ∨ (engineMove s = .refused .launchPremise ∧ s.ph = Op.chk) := by
  unfold engineMove
  split
  · exact .inl ⟨s, rfl⟩
  · rename_i hidle
    split
    · rename_i hev
      have hwindow := envFailWindow_iff.1 (Bool.and_eq_true_iff.1 hev).2
      exact .inl (envFailEvent_answers (h.consistent.pastChk hwindow))
    · obtain ⟨i, hi⟩ := exists_decode_issued h.consistent hidle
      rw [perform, hi]
      exact exec_answers h (wf_of_decodeMicro hi) hidle (ph_of_decode_issued hi)

theorem step_eq_engineMove {s : State} (turn : EngineTurn s) : step s = engineMove s.popped := by
  rw [step_eq_serve, engineTurn_iff.1 turn, serve]

/-- What the engine's own step does when it answers (R86, R181, R203). -/
theorem engineMove_cases {s t : State} (h : engineMove s = .next t) :
    (s.ph = Op.idle ∧ t = s) ∨ (s.ph ≠ Op.idle ∧ envFailEvent s = .next t) ∨
      ∃ i, s.ph ≠ Op.idle ∧ s.ph = opField (encode i) ∧ exec i s = .next t := by
  unfold engineMove perform at h
  split at h
  · cases h
    exact .inl ⟨‹_›, rfl⟩
  · split at h
    · exact .inr (.inl ⟨‹_›, h⟩)
    · split at h
      · exact .inr (.inr ⟨_, ‹_›, ph_of_decode_issued ‹_›, h⟩)
      · cases h

/-! Where a turn writes. -/

/-- Only KLD, KXW and FIN write RK (R130). -/
theorem exec_rk_eq {i : Instr} {s t : State} (h : exec i s = .next t) (hkld : i ≠ .kld)
    (hkxw : i ≠ .kxw) (hfin : i ≠ .fin) : t.rk = s.rk := by
  cases i with
  | encrypt => rw [(execEncrypt_frame h).1]
  | chk => rw [(execChk_frame h).1]
  | cbx => rw [(execCbx_frame h).1]
  | ark k => rw [(execArk_frame h).1]
  | sub | shr | mix => rw [(transformS_frame h).1]
  | bst => rw [(execBst_frame h).1]
  | kld => exact absurd rfl hkld
  | kxw => exact absurd rfl hkxw
  | fin => exact absurd rfl hfin

/-- A micro-operation of the fixed order that leaves RKV at 1 has not written RK (R130). -/
theorem exec_rk_eq_of_rkv {i : Instr} {s t : State} (h : Consistent s)
    (hph : s.ph = opField (encode i)) (run : exec i s = .next t) (hs : s.rkv = true)
    (ht : t.rkv = true) : t.rk = s.rk := by
  refine exec_rk_eq run ?_ ?_ ?_
  · rintro rfl
    cases ht.symm.trans (flags_eq_iff.1 (execKld_flags run)).1
  · rintro rfl
    cases hs.symm.trans (h.rkv_eq_false (by rw [hph]; decide))
  · rintro rfl
    cases ht.symm.trans (flags_eq_iff.1 (execFin_flags run)).1

/-- A micro-operation writes inside the ciphertext region, data part and scratch (R51, R61). -/
theorem exec_unchangedOutside {i : Instr} {s t : State} (h : Consistent s)
    (hph : s.ph = opField (encode i)) (run : exec i s = .next t) :
    UnchangedOutside s t (s.readDesc .ctAddr) (s.readDesc .ptLen + 176) := by
  intro x hx
  by_cases hbst : i = .bst
  · subst hbst
    have hready := h.blockReady (by rw [hph]; decide)
    obtain ⟨pt, n, key, iv, ct, ⟨-, hn, -⟩, hnblk, -⟩ := hready.layout
    have hfits := hready.blk_fits hnblk
    rw [readDesc_of_some (d := .ptLen) hn] at hx
    refine (execBst_frame run).2 x ?_
    rw [blockAddr]
    omega
  · by_cases hfin : i = .fin
    · subst hfin
      exact (execFin_frame run).2.1 x (by omega)
    · rw [exec_mem_eq run hbst hfin]

end Sys2Proof.Machine
end

section
/-! The statements of safety under the invariant. -/

namespace Sys2Proof.Machine

/-- A call has ended: DONE is 1 and BUSY is 0 (R181). -/
def State.Ended (s : State) : Prop := s.done = true ∧ s.busy = false

/-- Settles O24: under the invariant every turn answers or is CHK's refusal. -/
theorem engineFaultsUnreachable : Obligations.EngineFaultsUnreachable := by
  intro s h turn
  rw [step_eq_engineMove turn]
  obtain ⟨t, ht⟩ | ⟨hr, hph⟩ := engineMove_answers h.popped
  · rw [ht]
    exact ⟨nofun, nofun⟩
  · rw [hr]
    exact ⟨nofun, fun r hr' => ⟨(Host.Outcome.refused.inj hr').symm, hph⟩⟩

/-- Settles O15: KLD and FIN clear RKV, KXW runs while it is 0, and nothing else writes RK. -/
theorem scheduleReadOnlyOnceDerived : Obligations.ScheduleReadOnlyOnceDerived := by
  intro s t h run hs ht
  cases step_cases run with
  | micro _ _ _ _ _ hph run =>
    exact exec_rk_eq_of_rkv (s := s.popped) h.consistent.popped hph run hs ht
  | event _ _ _ run =>
    obtain ⟨-, rfl⟩ := envFailEvent_eq_next.1 run
    rfl
  | command _ run =>
    rw [(execEncrypt_frame run).1]
    rfl
  | reset _ hreset =>
    cases ht.symm.trans (hreset ▸ (flags_eq_iff.1 (assertReset_flags s.popped)).1)
  | descriptor _ v d _ _ _ _ ht => rw [ht, State.setDesc_rk, State.popped_rk]
  | idle _ _ ht | ignored _ _ _ ht | answered _ _ _ _ ht | answeredFree _ _ _ _ ht
  | memory _ _ _ _ ht | level _ _ ht => rw [ht]; rfl

/-- Settles O59: BST writes a block inside the call's length, FIN the scratch region, the event the
whole region. -/
theorem engineWritesOnlyCiphertext : Obligations.EngineWritesOnlyCiphertext := by
  intro s t x h turn run hx
  have houtside (hidle : s.ph ≠ Op.idle) :
      x < s.readDesc .ctAddr ∨ s.readDesc .ctAddr + (s.readDesc .ptLen + 176) ≤ x := by
    have hreg (d : Desc) := desc_eq_readDesc (h.consistent.desc_written hidle) d
    rw [← Nat.add_assoc]
    exact hx _ _ (hreg .ctAddr) (hreg .ptLen)
  rw [step_eq_engineMove turn] at run
  obtain ⟨-, rfl⟩ | ⟨hidle, run⟩ | ⟨i, hidle, hph, run⟩ := engineMove_cases run
  · rfl
  · obtain ⟨-, rfl⟩ := envFailEvent_eq_next.1 run
    exact spoil_read_outside s.popped _ _ (houtside hidle)
  · exact exec_unchangedOutside h.consistent.popped hph run x (houtside hidle)

/-- Settles O41: the rows of R32's table that touch DONE and BUSY are FIN, ENCRYPT and reset. -/
theorem endOfRun : Obligations.EndOfRun := by
  intro s t
  have hmove (h : step s = .next t) :
      (¬ s.Ended → t.Ended → EngineTurn s ∧ s.ph = Op.fin) ∧
        (s.Ended → ¬ t.Ended →
          s.inputs.head? = some (.writeReg 0 1) ∨ s.inputs.head? = some .reset) := by
    unfold State.Ended
    cases step_flagMove h
    all_goals
      rename_i flags
      obtain ⟨-, hbusy, hdone, -⟩ := flags_eq_iff.1 flags
      simp_all
  refine ⟨fun h => (hmove h).1, fun h => (hmove h).2, fun h hdone hbusy => ?_⟩
  have hidle := h.consistent.idle_of_not_busy hbusy
  exact ⟨hidle, by rw [engineMove, if_pos hidle]⟩

/-- STATUS field by field, for every ERR, DONE and BUSY (R35). -/
theorem statusWord_fields : ∀ (e : Nibble) (d b : Bool),
    let w : Byte := e ++ (0#2 ++ (BitVec.ofBool d ++ BitVec.ofBool b))
    w.getLsbD 0 = b ∧ w.getLsbD 1 = d ∧ w.extractLsb' 2 2 = 0#2 ∧ w.extractLsb' 4 4 = e := by
  decide

/-- The nine legal values: an ERR of at most 3, none before the first call ends, never BUSY and DONE
together (R35). -/
theorem statusWord_legal : ∀ (e : Nibble) (d b : Bool), e.toNat ≤ 3 → ¬ (b = true ∧ d = true) →
    (b = false ∧ d = false → e = 0#4) →
    e ++ (0#2 ++ (BitVec.ofBool d ++ BitVec.ofBool b)) ∈ legalStatus := by
  decide

/-- Settles O49: under the invariant the three fields are those of a legal value. -/
theorem statusRegister : Obligations.StatusRegister := by
  intro s
  obtain ⟨hbusy, hdone, hzero, herr⟩ := statusWord_fields s.err s.done s.busy
  refine ⟨⟨hbusy, hdone, hzero, herr, rfl⟩, fun h => ?_⟩
  exact statusWord_legal _ _ _ h.consistent.err_le h.consistent.not_both
    fun hnone => h.consistent.err_zero (.inr hnone)

end Sys2Proof.Machine
end

section
/-! SUPPORT for the proofs. The host's moves by what they need: writes to CTRL, memory moves, and
the reads, which depend on no hidden register (10_state.md section 5, 20_memory.md section 3). -/

namespace Sys2Proof.Machine

/-! CTRL. -/

/-- The reserved words of format U: every other is one of R83's twenty (R88). -/
theorem decodeMicro_of_reserved : ∀ w : Byte,
    (w.extractLsb' 4 4 = 0x0#4 ∨ 0xB ≤ (w.extractLsb' 4 4).toNat ∨
      (w.extractLsb' 4 4 = 0x5#4 ∧ 11 ≤ (w.extractLsb' 0 4).toNat) ∨
      (w.extractLsb' 4 4 ≠ 0x5#4 ∧ w.extractLsb' 0 4 ≠ 0x0#4)) →
    decodeMicro w = .error .reservedWord := by
  decide

/-- A reserved word written to CTRL is refused, busy or not (R88; log 18). -/
theorem writeCtrl_of_reserved {v : Nat} (h2 : 2 ≤ v) (h256 : v < 256) (s : State) :
    writeCtrl v s = .refused .reservedCommand := by
  obtain ⟨k, rfl⟩ := Nat.exists_eq_add_of_le' h2
  have hword : decodeCommand (BitVec.ofNat 8 (k + 2)) = .error .reservedCommand := by
    unfold decodeCommand
    rw [BitVec.toNat_ofNat, Nat.mod_eq_of_lt h256]
    rfl
  rw [writeCtrl, if_pos h256, hword]

/-! Memory moves. -/

/-- The n addresses from a on touch none of the four regions of the call (R51, R67). -/
def State.clear (s : State) (a n : Nat) : Bool := s.clearOfWritten a n && s.clearOfInputs a n

/-- The test for a region that a written register names is R56's, said address by address. -/
theorem clearOf_iff {s : State} {a n v len : Nat} {d : Desc} (h : s.desc d = some v) :
    s.clearOf a n d len = true ↔ Separate a n v len := by
  rw [State.clearOf, readDesc_of_some h, disjoint_iff_separate]

theorem clearOfWritten_iff {s : State} {a n ct len : Nat} (hct : s.ctAddr = some ct)
    (hlen : s.ptLen = some len) :
    s.clearOfWritten a n = true ↔ Separate a n ct (len + 176) := by
  rw [State.clearOfWritten, readDesc_of_some (d := .ptLen) hlen, clearOf_iff (d := .ctAddr) hct]

theorem clear_iff {s : State} {a n pt len key iv ct : Nat} (hpt : s.ptAddr = some pt)
    (hlen : s.ptLen = some len) (hkey : s.keyAddr = some key) (hiv : s.ivAddr = some iv)
    (hct : s.ctAddr = some ct) :
    s.clear a n = true ↔ Separate a n ct (len + 176) ∧ Separate a n pt len ∧
      Separate a n key 16 ∧ Separate a n iv 16 := by
  rw [State.clear, State.clearOfInputs, readDesc_of_some (d := .ptLen) hlen, Bool.and_eq_true,
    Bool.and_eq_true, Bool.and_eq_true, clearOfWritten_iff hct hlen, clearOf_iff (d := .ptAddr) hpt,
    clearOf_iff (d := .keyAddr) hkey, clearOf_iff (d := .ivAddr) hiv, and_assoc]

theorem hostWriteMem_of_clear {s : State} {a : Nat} {bs : List Byte}
    (h : s.busy = false ∨ s.clear a bs.length = true)
    (hexist : a + bs.length ≤ 2 ^ s.cfg.addrW) :
    hostWriteMem a bs s = .next { s with mem := Memory.writeSeq s.mem a bs } := by
  have hno : ¬ (s.busy && !s.clear a bs.length) = true := by
    obtain h | h := h <;> simp [h]
  rw [hostWriteMem, ← State.clear, if_neg hno, memWrite_eq_ok.2 ⟨hexist, rfl⟩, attempt_ok]

theorem hostWriteMem_of_not_clear {s : State} {a : Nat} {bs : List Byte} (hbusy : s.busy = true)
    (h : ¬ s.clear a bs.length = true) : hostWriteMem a bs s = .refused .bufferViolation := by
  have hyes : (s.busy && !s.clear a bs.length) = true := by simp [hbusy, h]
  rw [hostWriteMem, ← State.clear, if_pos hyes]

/-- A host read of memory gives the byte the address holds (R50, R67). -/
theorem hostReadMem_eq_next {a : Nat} {s t : State} :
    hostReadMem a s = .next t ↔ (s.busy = false ∨ s.clearOfWritten a 1 = true) ∧
      a + 1 ≤ 2 ^ s.cfg.addrW ∧ t = s.answer (Memory.byte s.mem a).toNat := by
  unfold hostReadMem
  split
  · rename_i h
    simp only [Bool.and_eq_true, Bool.not_eq_true'] at h
    simp [h.1, h.2]
  · rename_i h
    have hclear : s.busy = false ∨ s.clearOfWritten a 1 = true := by
      cases hb : s.busy <;> simp_all
    simp only [attempt_eq_next, memRead_eq_ok, hclear, true_and]
    constructor
    · rintro ⟨bs, ⟨hexist, rfl⟩, ht⟩
      cases ht
      exact ⟨hexist, rfl⟩
    · rintro ⟨hexist, rfl⟩
      exact ⟨_, ⟨hexist, rfl⟩, rfl⟩

theorem hostReadMem_of_not_clear {a : Nat} {s : State} (hbusy : s.busy = true)
    (h : ¬ s.clearOfWritten a 1 = true) : hostReadMem a s = .refused .bufferViolation := by
  rw [hostReadMem, if_pos (by simp [hbusy, h])]

/-! What a read can tell. -/

/-- t differs from s at most in the registers that no host read shows: S, W, RCON, RK, RKV, NBLK and
the position (R39, R220). -/
def HiddenOnly (s t : State) : Prop :=
  t = { s with
    regS := t.regS, regW := t.regW, rk := t.rk, rcon := t.rcon, nblk := t.nblk, rkv := t.rkv,
    ph := t.ph, rnd := t.rnd, blk := t.blk, kpos := t.kpos }

section
variable {s t : State} (h : HiddenOnly s t)
include h

theorem HiddenOnly.busy_eq : t.busy = s.busy := by rw [h]

theorem HiddenOnly.mem_eq : t.mem = s.mem := by rw [h]

theorem HiddenOnly.cfg_eq : t.cfg = s.cfg := by rw [h]

theorem HiddenOnly.draws_eq : t.draws = s.draws := by rw [h]

theorem HiddenOnly.statusWord_eq : t.statusWord = s.statusWord := by
  rw [h]
  rfl

theorem HiddenOnly.desc_eq (d : Desc) : t.desc d = s.desc d := by
  rw [h]
  rfl

theorem HiddenOnly.clearOfWritten_eq (a n : Nat) : t.clearOfWritten a n = s.clearOfWritten a n := by
  rw [h]
  rfl

theorem HiddenOnly.readDescHost_rdata (d : Desc) :
    (readDescHost d t).rdata = (readDescHost d s).rdata := by
  simp only [readDescHost, h.busy_eq, h.desc_eq]
  split
  · rfl
  · simp only [State.answerFree, h.draws_eq, h.cfg_eq]

/-- A read of a register by number tells nothing of what is hidden (R39). -/
theorem HiddenOnly.hostReadReg {r : Nat} {s' : State} (hs : hostReadReg r s = .next s') :
    ∃ t', hostReadReg r t = .next t' ∧ t'.rdata = s'.rdata := by
  obtain rfl | rfl | ⟨h2, h8⟩ | h9 : r = 0 ∨ r = 1 ∨ (2 ≤ r ∧ r ≤ 8) ∨ 9 ≤ r := by omega
  · cases hs
    exact ⟨_, rfl, rfl⟩
  · cases hs
    exact ⟨_, rfl, by rw [State.answer_rdata, State.answer_rdata, h.statusWord_eq]⟩
  · obtain ⟨d, hd⟩ := exists_ofNumber h2 h8
    rw [hostReadReg_of_ofNumber hd] at hs
    cases hs
    exact ⟨_, hostReadReg_of_ofNumber hd t, h.readDescHost_rdata d⟩
  · rw [hostReadReg_of_ge h9] at hs
    cases hs

/-- A read of memory tells nothing of what is hidden (R39). -/
theorem HiddenOnly.hostReadMem {a : Nat} {s' : State} (hs : hostReadMem a s = .next s') :
    ∃ t', hostReadMem a t = .next t' ∧ t'.rdata = s'.rdata := by
  obtain ⟨hclear, hexist, rfl⟩ := hostReadMem_eq_next.1 hs
  refine ⟨_, hostReadMem_eq_next.2 ⟨?_, ?_, rfl⟩, ?_⟩
  · rwa [h.busy_eq, h.clearOfWritten_eq]
  · rwa [h.cfg_eq]
  · rw [State.answer_rdata, State.answer_rdata, h.mem_eq]

end

/-! Reset. -/

/-- A reset outside a call past CHK, told by BUSY, the phase and ERR (R230). -/
theorem pastChk_eq_false {s : State} (h : s.busy = false ∨ s.ph = Op.idle ∨ s.ph = Op.chk ∨
    (s.ph = Op.fin ∧ s.err ≠ 0#4 ∧ s.err ≠ 3#4)) : s.pastChk = false := by
  refine Bool.eq_false_iff.2 fun hpast => ?_
  obtain ⟨hbusy, hpos⟩ := Bool.and_eq_true_iff.1 hpast
  have hpos := pastChkPos_iff.1 hpos
  rw [errPastChk_iff] at hpos
  obtain h | h := h
  · simp [h] at hbusy
  · bv_omega

theorem pastChk_of_busy {s : State} (hbusy : s.busy = true)
    (h : (2 ≤ s.ph.toNat ∧ s.ph.toNat ≤ 9) ∨ (s.ph = Op.fin ∧ (s.err = 0#4 ∨ s.err = 3#4))) :
    s.pastChk = true :=
  Bool.and_eq_true_iff.2 ⟨hbusy, pastChkPos_iff.2 (h.imp_right (And.imp_right errPastChk_iff.2))⟩

/-- What a reset leaves: the engine at its values of R42, the host's and the model's fields as they
were, memory and draws as the free bytes make them (R230, R231). -/
theorem assertReset_frame (s : State) : s.assertReset = { State.reset with
    cfg := s.cfg, envFail := s.envFail, mem := s.assertReset.mem, draws := s.assertReset.draws,
    rdata := s.rdata, inputs := s.inputs } := by
  unfold State.assertReset
  dsimp only
  split <;> rfl

/-! Steps that draw free values. -/

/-- FIN of a call past CHK takes 176 draws, one for each byte of the scratch region (R55, R177). -/
theorem execFin_draws {s t : State} {ct n : Nat} (h : execFin s = .next t)
    (herr : s.err = 0#4 ∨ s.err = 3#4) (hct : s.ctAddr = some ct) (hn : s.ptLen = some n) :
    t.draws = s.draws + 176 ∧
      ∀ j < 176, Memory.byte t.mem (ct + n + j) = Config.freeByte (s.draws + j) := by
  obtain ⟨u, hu, rfl⟩ := execFin_eq_next.1 h
  obtain ⟨-, -, rfl⟩ | ⟨hno, -⟩ := finScratch_eq_ok.1 hu
  · rw [readDesc_of_some (d := .ctAddr) hct, readDesc_of_some (d := .ptLen) hn]
    -- The draws are counted for a region of any length.
    generalize 176 = len
    exact ⟨rfl, fun j hj => spoil_byte_inside s (ct + n) len hj⟩
  · rw [errPastChk_iff.2 herr] at hno
    cases hno

/-- The step of an event takes one draw for each byte of the ciphertext region (R203). -/
theorem envFail_step_draws {s t : State} {ct n : Nat} (turn : EngineTurn s)
    (level : s.envFail = true) (hph : 2 ≤ s.ph.toNat ∧ s.ph.toNat ≤ 9) (h : step s = .next t)
    (hct : s.ctAddr = some ct) (hn : s.ptLen = some n) :
    t.draws = s.draws + (n + 176) ∧
      ∀ j < n + 176, Memory.byte t.mem (ct + j) = Config.freeByte (s.draws + j) := by
  rw [envFail_step_cases turn level hph h, readDesc_of_some (d := .ctAddr) hct,
    readDesc_of_some (d := .ptLen) hn]
  exact ⟨rfl, fun j hj => spoil_byte_inside s.popped ct (n + 176) hj⟩

/-- The ciphertext region of a launched call exists (R56, premise 1). -/
theorem region_exists_of_launched {s : State} {ct n : Nat} (h : s.launched = true)
    (hct : s.ctAddr = some ct) (hn : s.ptLen = some n) : ct + n + 176 ≤ 2 ^ s.cfg.addrW := by
  obtain ⟨_, m, _, _, a, ⟨-, hm, -, -, -, -, ha⟩, -, hok⟩ := launched_iff.1 h
  obtain rfl : m = n := Option.some.inj (hm.symm.trans hn)
  obtain rfl : a = ct := Option.some.inj (ha.symm.trans hct)
  exact (buffersOk_iff.1 hok).2.1

/-- A reset in a call past CHK takes one draw for each byte of the ciphertext region (R231). -/
theorem assertReset_draws {s : State} {ct n : Nat} (h : s.pastChk = true)
    (hct : s.ctAddr = some ct) (hn : s.ptLen = some n) (hexist : ct + n + 176 ≤ 2 ^ s.cfg.addrW) :
    s.assertReset.draws = s.draws + (n + 176) ∧
      ∀ j < n + 176, Memory.byte s.assertReset.mem (ct + j) = Config.freeByte (s.draws + j) := by
  rw [assertReset_of_pastChk h, readDesc_of_some (d := .ctAddr) hct,
    readDesc_of_some (d := .ptLen) hn, min_eq_left (by omega)]
  exact ⟨rfl, fun j hj => spoil_byte_inside s ct (n + 176) hj⟩

/-! ERR. -/

/-- The step of an event on a descriptor whose region exists (R203). -/
theorem step_envFail {s : State} {ct n : Nat} (hin : s.inputs = []) (level : s.envFail = true)
    (hph : 2 ≤ s.ph.toNat ∧ s.ph.toNat ≤ 9) (hct : s.ctAddr = some ct) (hn : s.ptLen = some n)
    (hexist : ct + n + 176 ≤ 2 ^ s.cfg.addrW) :
    step s = .next ((s.spoil ct (n + 176)).raise Err.executionEnvironmentFailure) := by
  have hctRead : s.readDesc .ctAddr = ct := readDesc_of_some hct
  have hnRead : s.readDesc .ptLen = n := readDesc_of_some hn
  rw [step_eq_envFailEvent (.inl hin) level hph, State.popped_of_nil hin, envFailEvent_eq_next,
    hctRead, hnRead]
  exact ⟨by omega, rfl⟩

/-- The FIN after an event ends the call with STATUS 0x32 (R203, R177). -/
theorem step_fin_after_envFail {s : State} {ct n : Nat} (hin : s.inputs = [])
    (hct : s.ctAddr = some ct) (hn : s.ptLen = some n) (hexist : ct + n + 176 ≤ 2 ^ s.cfg.addrW) :
    ∃ u, step (s.raise Err.executionEnvironmentFailure) = .next u ∧ u.statusWord = 0x32#8 ∧
      u.ph = Op.idle := by
  have hstep : step (s.raise Err.executionEnvironmentFailure) =
      exec .fin (s.raise Err.executionEnvironmentFailure) :=
    step_eq_exec_outside_window (op := Op.fin) hin rfl (by decide) (by decide) (by decide)
  have hfin : execFin (s.raise Err.executionEnvironmentFailure) = .next _ :=
    execFin_of_errPastChk rfl hct hn hexist
  refine ⟨_, hstep.trans hfin, ?_, State.ended_ph _⟩
  rw [State.ended_statusWord_eq, State.spoil_err, State.raise_err]
  rfl

/-- CHK never raises error 3 (R176). -/
theorem execChk_err_ne {s t : State} (h : execChk s = .next t) (hs : s.err ≠ 3#4) :
    t.err ≠ 3#4 := by
  obtain ⟨-, rfl⟩ | ⟨-, -, rfl⟩ | ⟨-, -, -, -, rfl⟩ := execChk_eq_next.1 h
  · exact show Err.invalidLength ≠ 3#4 by decide
  · exact show Err.invalidKeyOrIVSize ≠ 3#4 by decide
  · exact hs

/-- On its turn at CHK the engine performs CHK, whatever the level of ENV_FAIL (R210). -/
theorem step_eq_execChk {s : State} (turn : EngineTurn s) (hph : s.ph = Op.chk) :
    step s = execChk s.popped := by
  have hclosed : s.envFailWindow = false := by simp [State.envFailWindow, hph]
  rw [step_eq_exec (i := .chk) turn (by rw [hph]; decide) (by rw [hclosed, Bool.and_false])
    (by rw [issued_of_ph hph (by decide)]; decide), exec]

/-! Placing a word (log 15). -/

theorem withFetchWord_encode (s : State) (i : Instr) :
    s.withFetchWord 8 (encode i).toNat = placeWord (encode i) s := by
  rw [State.withFetchWord, BitVec.ofNat_toNat, BitVec.setWidth_eq]

/-- The word of a micro-operation, placed: the engine moves next, at the position that issues it. -/
theorem placeWord_micro (s : State) {i : Instr} (hi : i ≠ .encrypt) (hwf : i.wf = true) :
    (placeWord (encode i) s).inputs = .run :: s.inputs ∧ (placeWord (encode i) s).envFail = false ∧
      (placeWord (encode i) s).issued = encode i ∧
      (placeWord (encode i) s).ph = opField (encode i) := by
  cases i with
  | encrypt => exact absurd rfl hi
  | ark k =>
    have hdecode : decodeMicro (microWord Op.ark k) = .ok (.ark k) :=
      (decodeMicro_encode_eq_ok (i := .ark k)).2 ⟨hi, hwf⟩
    have hop : opField (microWord Op.ark k) ≠ Op.idle := by
      rw [opField_microWord]
      decide
    simp only [encode, placeWord, if_neg hop, hdecode]
    exact ⟨rfl, rfl, rfl, (opField_microWord _ _).symm⟩
  | _ => exact ⟨rfl, rfl, rfl, rfl⟩

end Sys2Proof.Machine
end

section
/-! The statements of the encodings and the step (30_encoding.md). -/

namespace Sys2Proof.Machine

/-- Settles O4: the reserved words are no row of R83, and both ports stop on them before anything
else is looked at. -/
theorem reservedEncodingsStop : Obligations.ReservedEncodingsStop := by
  refine fun s => ⟨fun w hw => ?_, fun k hk => ?_, fun v h2 h256 => writeCtrl_of_reserved h2 h256 s⟩
  · have hword := decodeMicro_of_reserved w hw
    exact ⟨hword, by rw [perform, hword]⟩
  · rw [exec, execArk, if_neg (by omega)]

/-- Settles O5: the engine's turn by `step_eq_exec`, the host's moves by evaluation. -/
theorem stepRunsDecodedInstruction : Obligations.StepRunsDecodedInstruction := by
  refine fun s i rest => ⟨fun hidle hev hi => ⟨fun hin => ?_, ?_⟩, rfl, fun hidle hin => ?_,
    fun _ => rfl⟩
  · rw [step_eq_exec (.inl hin) hidle hev hi, State.popped_of_nil hin]
  · exact step_eq_exec (s := { s with inputs := .run :: rest }) (.inr rfl) hidle hev hi
  · rw [step_eq_engineMove (.inl hin), State.popped_of_nil hin, engineMove, if_pos hidle]

/-- Settles O6: a placed command is the host's next move; a placed micro-operation is the word the
position issues, with the engine to move and no event to take. -/
theorem placedWordRunsNext : Obligations.PlacedWordRunsNext := by
  intro s i hwf
  rw [withFetchWord_encode]
  by_cases hi : i = .encrypt
  · subst hi
    rfl
  · obtain ⟨hin, henv, hissued, hph⟩ := placeWord_micro s hi hwf
    have hidle : (placeWord (encode i) s).ph ≠ Op.idle := fun h =>
      hi (opField_encode_eq_idle.1 (hph.symm.trans h))
    rw [step_eq_exec (.inr (by rw [hin]; rfl)) hidle (by rw [henv, Bool.false_and])
      (hissued ▸ decodeMicro_encode_eq_ok.2 ⟨hi, hwf⟩), State.popped, hin, List.tail_cons]

/-- Settles O45: idle, at CHK and at FIN no event is taken, so the phase's operation runs. -/
theorem envFailIgnoredOutsideWindow : Obligations.EnvFailIgnoredOutsideWindow := by
  rintro s hin (hph | hph | hph)
  · rw [if_pos hph, step_eq_engineMove (.inl hin), State.popped_of_nil hin, engineMove, if_pos hph]
  · rw [hph, if_neg (by decide), if_pos rfl,
      step_eq_exec_outside_window (i := .chk) hin hph (by decide) (by decide) (by decide)]
  · rw [hph, if_neg (by decide), if_neg (by decide),
      step_eq_exec_outside_window (i := .fin) hin hph (by decide) (by decide) (by decide)]

end Sys2Proof.Machine
end

section
/-! The statements of the host interface, the ENV_FAIL event and reset. -/

namespace Sys2Proof.Machine

/-- Settles O46: 0x00 and 0x01 by evaluation, the reserved words as O4. -/
theorem ctrlPort : Obligations.CtrlPort := fun s =>
  ⟨rfl, rfl, fun _ h2 h256 => writeCtrl_of_reserved h2 h256 s, rfl⟩

/-- Settles O50: what a read gives depends on BUSY, STATUS, the descriptor, memory and the draws. -/
theorem keyMaterialHidden : Obligations.KeyMaterialHidden := by
  rintro s t rS rW rk rc nb v p r b k reg a rfl
  have h : HiddenOnly s { s with
    regS := rS, regW := rW, rk := rk, rcon := rc, nblk := nb, rkv := v, ph := p, rnd := r, blk := b,
    kpos := k } := rfl
  exact ⟨fun _ => h.hostReadReg, fun _ => h.hostReadMem⟩

/-- Settles O51: the model's test for the regions is, address by address, that of the rule. -/
theorem hostKeepsOffBuffers : Obligations.HostKeepsOffBuffers := by
  refine fun s a bs => ⟨fun hb hexist => hostWriteMem_of_clear (.inl hb) hexist,
    fun hb hexist => hostReadMem_eq_next.2 ⟨.inl hb, hexist, rfl⟩, ?_⟩
  intro pt n key iv ct hbusy hpt hn hkey hiv hct
  refine ⟨fun j hj htouch => ?_, fun hle hlt => ?_, fun hsc hsp hsk hsi hexist => ?_,
    fun hout hexist => ?_⟩
  · refine hostWriteMem_of_not_clear hbusy fun hclear => ?_
    obtain ⟨hsc, hsp, hsk, hsi⟩ := (clear_iff hpt hn hkey hiv hct).1 hclear
    have hin : a ≤ a + j ∧ a + j < a + bs.length := by omega
    obtain h | h | h | h := htouch
    · exact hsc _ hin (by omega)
    · exact hsp _ hin h
    · exact hsk _ hin h
    · exact hsi _ hin h
  · exact hostReadMem_of_not_clear hbusy fun hclear =>
      (clearOfWritten_iff hct hn).1 hclear a (by omega) (by omega)
  · exact hostWriteMem_of_clear
      (.inr ((clear_iff hpt hn hkey hiv hct).2 ⟨hsc, hsp, hsk, hsi⟩)) hexist
  · refine hostReadMem_eq_next.2 ⟨.inr ((clearOfWritten_iff hct hn).2 fun x hx => ?_), hexist, rfl⟩
    omega

/-- Settles O44: the event's step and the FIN after it; and no other writer of ERR writes 3. -/
theorem envFailEventTaken : Obligations.EnvFailEventTaken := by
  refine ⟨fun s ct n hin level h2 h9 hct hn hexist => ?_, fun s t h hs ht => ?_⟩
  · refine ⟨_, step_envFail hin level ⟨h2, h9⟩ hct hn hexist, rfl, fun x hx => ?_, ?_⟩
    · exact spoil_read_outside s ct (n + 176) hx
    · exact step_fin_after_envFail hin hct hn hexist
  · cases step_flagMove h with
    | event turn level window _ => exact ⟨turn, level, envFailWindow_iff.1 window⟩
    | chk turn hph _ =>
      rw [step_eq_execChk turn hph] at h
      exact absurd ht (execChk_err_ne h hs)
    | kept flags | kld _ _ flags | kxwLast _ _ _ flags | fin _ _ flags =>
      obtain ⟨-, -, -, herr⟩ := flags_eq_iff.1 flags
      exact absurd (herr.symm.trans ht) hs
    | command _ flags | reset _ flags =>
      obtain ⟨-, -, -, herr⟩ := flags_eq_iff.1 flags
      exact absurd (herr.symm.trans ht) (by decide)

/-- Settles O53: the engine's part by `assertReset_frame`, memory's by when a reset draws. -/
theorem resetFromAnyState : Obligations.ResetFromAnyState := by
  intro s rest hin
  refine ⟨_, step_reset hin, ?_, fun hidle => ?_⟩
  · have hframe := assertReset_frame s.popped
    rwa [State.popped_inputs, hin] at hframe
  · rw [assertReset_of_not_pastChk (s := s.popped) (pastChk_eq_false hidle)]
    rfl

/-- Settles O60: FIN, the event and the reset each draw once for each address of their region. -/
theorem scratchBytesAreDraws : Obligations.ScratchBytesAreDraws := by
  refine fun s t ct n hct hn => ⟨fun h herr => execFin_draws h herr hct hn,
    fun h turn level h2 h9 => envFail_step_draws turn level ⟨h2, h9⟩ h hct hn,
    fun h run hmove hph => ?_⟩
  obtain ⟨rest, hin⟩ := List.head?_eq_some_iff.1 hmove
  rw [step_reset hin] at run
  cases run
  have hpast : s.pastChkPos = true :=
    pastChkPos_iff.2 (hph.imp_right (And.imp_right errPastChk_iff.2))
  have hbusy : s.busy = true := h.consistent.busy_iff.2 (by bv_omega)
  exact assertReset_draws (s := s.popped) (pastChk_of_busy hbusy hph) hct hn
    (region_exists_of_launched (h.consistent.launched hpast) hct hn)

end Sys2Proof.Machine
end

section
/-! SUPPORT for the proofs. The blocks of a call: the words of one block, then of all, and the
ciphertext blocks they leave in memory (43_block_cipher.md, 44_cbc_controller.md). -/

namespace Sys2Proof.Machine

/-! The ciphertext blocks in memory. -/

/-- Blocks of 16 bytes stored one after another from address a on (R173). -/
def Memory.storeBlocks (m : Memory) (a : Nat) : List (List Byte) → Memory
  | [] => m
  | c :: cs => Memory.storeBlocks (Memory.writeSeq m a c) (a + 16) cs

/-- Stored blocks leave every address outside them alone. -/
theorem Memory.read_storeBlocks_outside {m : Memory} {a x : Nat} {cs : List (List Byte)}
    (hcs : ∀ c ∈ cs, c.length = 16) (hx : x < a ∨ a + 16 * cs.length ≤ x) :
    Memory.read (Memory.storeBlocks m a cs) x = Memory.read m x := by
  induction cs generalizing m a with
  | nil => rfl
  | cons c cs ih =>
    rw [List.forall_mem_cons] at hcs
    rw [List.length_cons] at hx
    rw [Memory.storeBlocks, ih hcs.2 (by omega),
      Memory.read_writeSeq_outside _ _ _ (by rw [hcs.1]; omega)]

/-- Each stored block is read back from its place (R65). -/
theorem Memory.bytes_storeBlocks {m : Memory} {a i : Nat} {cs : List (List Byte)}
    (hcs : ∀ c ∈ cs, c.length = 16) (hi : i < cs.length) :
    cs[i]? = some (Memory.bytes (Memory.storeBlocks m a cs) (a + 16 * i) 16) := by
  induction cs generalizing m a i with
  | nil => exact absurd hi (Nat.not_lt_zero i)
  | cons c cs ih =>
    rw [List.forall_mem_cons] at hcs
    rw [Memory.storeBlocks]
    cases i with
    | zero =>
      have hstored := Memory.bytes_writeSeq_same m a c
      rw [hcs.1] at hstored
      refine congrArg some (hstored.symm.trans (Memory.bytes_congr fun j hj => ?_).symm)
      exact Memory.byte_congr (Memory.read_storeBlocks_outside hcs.2 (by omega))
    | succ i =>
      rw [show a + 16 * (i + 1) = a + 16 + 16 * i by omega]
      exact ih hcs.2 (Nat.lt_of_succ_lt_succ hi)

/-- A buffer of whole blocks is known by its blocks. -/
theorem Memory.bytes_eq_of_blocks {m m' : Memory} {a a' n : Nat} (hn : n % 16 = 0)
    (h : ∀ i < n / 16, Memory.bytes m (a + 16 * i) 16 = Memory.bytes m' (a' + 16 * i) 16) :
    Memory.bytes m a n = Memory.bytes m' a' n := by
  refine List.ext_getElem (by simp) fun j hj _ => ?_
  have hlt : j < n := by simpa using hj
  have hbyte := congrArg (·[j % 16]?) (h (j / 16) (by omega))
  simpa [Nat.mod_lt, Nat.add_assoc, Nat.div_add_mod] using hbyte

theorem cbcBlocks_length (rk c : List Byte) (ps : List (List Byte)) :
    (cbcBlocks rk c ps).length = ps.length := by
  induction ps generalizing c with
  | nil => rfl
  | cons p ps ih => rw [cbcBlocks, List.length_cons, ih, List.length_cons]

theorem cbcBlocks_block_length {rk : List Byte} (hrk : rk.length = 176) (c : List Byte)
    (ps : List (List Byte)) : ∀ b ∈ cbcBlocks rk c ps, b.length = 16 := by
  induction ps generalizing c with
  | nil => exact nofun
  | cons p ps ih => exact List.forall_mem_cons.2 ⟨encblock_length hrk, ih _⟩

/-! The state between two blocks. -/

/-- The state from s when block i of N is next, or FIN when none is left, with S, RND and memory as
the blocks before have left them (R87). -/
def State.atBlock (s : State) (N i : Nat) (S : ByteFile) (rnd : Nibble) (m : Memory) : State :=
  { s with regS := S, rnd := rnd, mem := m, blk := i, ph := if i < N then Op.cbx else Op.fin }

/-- A call whose schedule rk is complete, with its descriptor and the premises that its blocks need
(R56, R172, R173). -/
structure BlocksReady (s : State) (rk : List Byte) (pt n iv ct : Nat) : Prop where
  no_move : s.inputs = []
  no_envFail : s.envFail = false
  rkv : s.rkv = true
  rk_eq : s.rk = holding rk
  rk_len : rk.length = 176
  nblk : s.nblk = some (n / 16)
  ptAddr : s.ptAddr = some pt
  ivAddr : s.ivAddr = some iv
  ctAddr : s.ctAddr = some ct
  pt_exist : pt + n ≤ 2 ^ s.cfg.addrW
  ct_exist : ct + n + 176 ≤ 2 ^ s.cfg.addrW
  iv_exist : iv + 16 ≤ 2 ^ s.cfg.addrW
  separate : Separate ct (n + 176) pt n

/-- The address of the chain input of block i (R172). -/
def chainAddr (iv ct i : Nat) : Nat := if i = 0 then iv else ct + 16 * (i - 1)

/-- The words of one block: CBX, ENCBLK and BST (R86). -/
def blockWords : List Byte := encode .cbx :: (encblkWords ++ [encode .bst])

section
variable {s : State} {rk : List Byte} {pt n iv ct : Nat} (h : BlocksReady s rk pt n iv ct)
include h

/-- The step of CBX at block i makes S the plaintext block xor the chain input (R172). -/
theorem BlocksReady.step_cbx {i : Nat} (hi : i < n / 16) (S : ByteFile) (r : Nibble) (m : Memory) :
    step (s.atBlock (n / 16) i S r m) = .next ((s.atBlock (n / 16) i S r m).inBlock
      (xorBytes (Memory.bytes m (pt + 16 * i) 16) (Memory.bytes m (chainAddr iv ct i) 16))
      Op.ark 0#4) := by
  have hphase : (s.atBlock (n / 16) i S r m).ph = Op.cbx := if_pos hi
  have hpt : pt + 16 * i + 16 ≤ 2 ^ s.cfg.addrW := by
    have := h.pt_exist
    omega
  have hct := h.ct_exist
  have hcbx := (cbxChainsBlock (s.atBlock (n / 16) i S r m)).1 pt
  rw [step_eq_exec_of_quiet (s := s.atBlock (n / 16) i S r m) (i := .cbx) h.no_move h.no_envFail
    hphase (by decide) (by decide) (by decide), chainAddr]
  by_cases hzero : i = 0
  · rw [if_pos hzero]
    exact hcbx iv _ _ h.rkv h.ptAddr hpt rfl ((if_pos hzero).trans h.ivAddr)
      (by rw [show (s.atBlock (n / 16) i S r m).blk = 0 from hzero, if_pos rfl]; exact h.iv_exist)
      (by rw [show (s.atBlock (n / 16) i S r m).blk = 0 from hzero, if_pos rfl]; rfl)
  · have hblk : ¬ (s.atBlock (n / 16) i S r m).blk = 0 := hzero
    rw [if_neg hzero]
    exact hcbx ct _ _ h.rkv h.ptAddr hpt rfl ((if_neg hzero).trans h.ctAddr)
      (by rw [if_neg hblk]; exact show ct + 16 * (i - 1) + 16 ≤ 2 ^ s.cfg.addrW by omega)
      (by rw [if_neg hblk]; rfl)

/-- The step of BST at block i stores S and goes on to the next block (R173). -/
theorem BlocksReady.step_bst {i : Nat} (hi : i < n / 16) (S : ByteFile) (r : Nibble) (m : Memory)
    {c : List Byte} (hc : c.length = 16) :
    step ((s.atBlock (n / 16) i S r m).inBlock c Op.bst 10#4) =
      .next (s.atBlock (n / 16) (i + 1) (holding c) 10#4 (Memory.writeSeq m (ct + 16 * i) c)) := by
  have haddr : s.readDesc .ctAddr = ct := readDesc_of_some h.ctAddr
  have hread : readFile (holding c) 0 16 = .ok c := hc ▸ readFile_holding c
  have hexist : ct + 16 * i + 16 ≤ 2 ^ s.cfg.addrW := by
    have := h.ct_exist
    omega
  rw [step_inBlock (s := s.atBlock (n / 16) i S r m) (ph := Op.bst) h.no_move h.no_envFail
    (i := .bst) (by decide) rfl, ← haddr]
  exact execBst_eq_next.2 ⟨c, n / 16, hread, h.nblk, by rw [← haddr] at hexist; exact hexist, rfl⟩

/-- A block issues its 42 words and stores its ciphertext block (R86, R170). -/
theorem BlocksReady.issues_block {i : Nat} (hi : i < n / 16) (S : ByteFile) (r : Nibble)
    (m : Memory) {p c : List Byte} (hp : Memory.bytes m (pt + 16 * i) 16 = p)
    (hc : Memory.bytes m (chainAddr iv ct i) 16 = c) :
    Issues (s.atBlock (n / 16) i S r m) blockWords
      (s.atBlock (n / 16) (i + 1) (holding (encblock (xorBytes p c) rk)) 10#4
        (Memory.writeSeq m (ct + 16 * i) (encblock (xorBytes p c) rk))) := by
  have hphase : (s.atBlock (n / 16) i S r m).ph = Op.cbx := if_pos hi
  have hcbx := h.step_cbx hi S r m
  rw [hp, hc] at hcbx
  have hlen : (xorBytes p c).length = 16 := by simp [← hp, ← hc]
  have henc := issues_encblkWords (s := s.atBlock (n / 16) i S r m) h.no_move h.no_envFail h.rkv
    h.rk_len h.rk_eq hlen
  have hbst := h.step_bst hi S r m (encblock_length (x := xorBytes p c) h.rk_len)
  exact .cons (issued_of_ph hphase (by decide)) hcbx (henc.append (.cons rfl hbst (.nil _)))

/-- From block i on the call issues 42 words a block and stores the blocks of CBC, which chain on
from the block before (R64, R86, R170). -/
theorem BlocksReady.issues_blocks {ps : List (List Byte)} {i : Nat} {c : List Byte}
    (hps : i + ps.length = n / 16) (S : ByteFile) (r : Nibble) (m : Memory)
    (hpt : ∀ j < ps.length, ps[j]? = some (Memory.bytes m (pt + 16 * (i + j)) 16))
    (hc : Memory.bytes m (chainAddr iv ct i) 16 = c) :
    ∃ S' r', Issues (s.atBlock (n / 16) i S r m) (List.replicate ps.length blockWords).flatten
      (s.atBlock (n / 16) (n / 16) S' r'
        (Memory.storeBlocks m (ct + 16 * i) (cbcBlocks rk c ps))) := by
  induction ps generalizing i c S r m with
  | nil =>
    obtain rfl : i = n / 16 := hps
    exact ⟨S, r, .nil _⟩
  | cons p ps ih =>
    rw [List.length_cons] at hps
    have hi : i < n / 16 := by omega
    have hp : Memory.bytes m (pt + 16 * i) 16 = p := (Option.some.inj (hpt 0 (by simp))).symm
    have hfirst := h.issues_block hi S r m hp hc
    have hlen : (encblock (xorBytes p c) rk).length = 16 := encblock_length h.rk_len
    have hnext : Memory.bytes (Memory.writeSeq m (ct + 16 * i) (encblock (xorBytes p c) rk))
        (chainAddr iv ct (i + 1)) 16 = encblock (xorBytes p c) rk := by
      have hstored := Memory.bytes_writeSeq_same m (ct + 16 * i) (encblock (xorBytes p c) rk)
      rwa [hlen] at hstored
    have hrest (j : Nat) (hj : j < ps.length) : ps[j]? = some
        (Memory.bytes (Memory.writeSeq m (ct + 16 * i) (encblock (xorBytes p c) rk))
          (pt + 16 * (i + 1 + j)) 16) := by
      have hkept := hpt (j + 1) (by simpa using hj)
      rw [List.getElem?_cons_succ, show i + (j + 1) = i + 1 + j by omega] at hkept
      refine hkept.trans (congrArg some (Memory.bytes_congr fun k hk => ?_).symm)
      -- The block stored lies in the ciphertext region, which the plaintext does not touch.
      refine Memory.byte_writeSeq_outside _ _ _ ?_
      have hsep := disjoint_iff.1 (disjoint_iff_separate.2 h.separate)
      omega
    obtain ⟨S', r', hlast⟩ := ih (i := i + 1) (by omega) _ _ _ hrest hnext
    exact ⟨S', r', hfirst.append hlast⟩

end

end Sys2Proof.Machine
end

section
/-! SUPPORT for the proofs. A whole call that is ready, from CHK to FIN (44_cbc_controller.md
section 5). -/

namespace Sys2Proof.Machine

/-- The state in which a call that is ready leaves the machine: after the schedule and all blocks,
with len bytes of scratch drawn, and ended by FIN (R178). -/
def State.called (s : State) (rk : List Byte) (ct n len : Nat) (S : ByteFile) (r : Nibble)
    (cs : List (List Byte)) : State :=
  ((((s.latched n).keyExpanded rk (n / 16)).atBlock (n / 16) (n / 16) S r
    (Memory.storeBlocks s.mem ct cs)).spoil (ct + n) len).ended

theorem callWords_eq (N : Nat) : callWords N =
    (encode .chk :: encode .kld :: List.replicate 40 (encode .kxw)) ++
      ((List.replicate N blockWords).flatten ++ [encode .fin]) := by
  rw [← List.append_assoc]
  rfl

theorem callWords_length (N : Nat) : (callWords N).length = 43 + 42 * N := by
  have hblock : blockWords.length = 42 := by decide
  simp [callWords_eq, hblock]
  omega

section
variable {s : State} {pt n key iv ct : Nat} {kb ivb : List Byte} {ps : List (List Byte)}
  (h : CallReady s pt n key iv ct kb ivb ps)
include h

/-- After the key schedule the blocks can begin. -/
theorem CallReady.blocksReady {rk : List Byte} (hrk : rk.length = 176) :
    BlocksReady ((s.latched n).keyExpanded rk (n / 16)) rk pt n iv ct := by
  obtain ⟨⟨hptExist, hctExist, -, hivExist⟩, hsep, -, -⟩ := h.premises
  exact ⟨h.no_move, h.no_envFail, rfl, rfl, hrk, rfl, h.ptAddr, h.ivAddr, h.ctAddr, hptExist,
    hctExist, hivExist, hsep⟩

theorem CallReady.schedule_length : (keyexp kb).length = 176 :=
  keyexp_length (by rw [← h.key_bytes, Memory.bytes_length])

/-- A call that is ready issues exactly the words of R86 and ends with the blocks of CBC stored. -/
theorem CallReady.issues_callWords (hinv : Inv s) : ∃ S r, Issues s (callWords (n / 16))
    (s.called (keyexp kb) ct n 176 S r (cbcBlocks (keyexp kb) ivb ps)) := by
  have hkeys := issues_chk_keySchedule hinv.shape.rk_len h
  have hrk := h.schedule_length
  -- From here on the schedule is any of 176 bytes.
  generalize keyexp kb = rk at hkeys hrk ⊢
  have herr : s.err = 0#4 := hinv.consistent.err_zero (.inl (by rw [h.at_chk]; decide))
  obtain ⟨S, r, hblocks⟩ := (h.blocksReady hrk).issues_blocks (ps := ps) (i := 0) (c := ivb)
    (by rw [Nat.zero_add, h.n_blocks]) s.regS s.rnd s.mem
    (fun j hj => by rw [Nat.zero_add]; exact h.pt_bytes j (by rwa [← h.n_blocks])) h.iv_bytes
  rw [h.n_blocks] at hblocks
  have hfin := step_fin (s := ((s.latched n).keyExpanded rk (n / 16)).atBlock (n / 16) (n / 16) S r
    (Memory.storeBlocks s.mem ct (cbcBlocks rk ivb ps))) (if_neg (lt_irrefl _)) h.no_move
    h.no_envFail (errPastChk_iff.2 (.inl herr)) h.ctAddr h.ptLen h.premises.1.2.1
  refine ⟨S, r, ?_⟩
  rw [callWords_eq]
  exact hkeys.append (hblocks.append (.cons (issued_of_ph (if_neg (lt_irrefl _)) (by decide)) hfin
    (.nil _)))

/-- A call that is ready ends after 43 + 42*NBLK steps (R178). -/
theorem CallReady.run_eq (hinv : Inv s) : ∃ S r,
    Host.Core.run Sys2Proof.core (43 + 42 * (n / 16)) s =
      .next (s.called (keyexp kb) ct n 176 S r (cbcBlocks (keyexp kb) ivb ps)) := by
  obtain ⟨S, r, hcall⟩ := h.issues_callWords hinv
  exact ⟨S, r, callWords_length (n / 16) ▸ hcall.run_eq⟩

end

section
variable (s : State) {rk : List Byte} {ct n len : Nat} (S : ByteFile) (r : Nibble)
  {cs : List (List Byte)}

/-- At the end of a call nothing but memory and the draws differs from the start, but for the
registers that FIN sets (R177, R178). -/
theorem State.called_frame : s.called rk ct n len S r cs = { s with
    regS := List.replicate 16 none, regW := List.replicate 4 none, rcon := none,
    rk := List.replicate 176 none, nblk := none, rkv := false, busy := false, done := true,
    ph := 0x0#4, blk := 0, rnd := 0#4, kpos := 16#8, mem := (s.called rk ct n len S r cs).mem,
    draws := (s.called rk ct n len S r cs).draws } := rfl

theorem State.called_statusWord (herr : s.err = 0#4) :
    (s.called rk ct n len S r cs).statusWord = 0x02#8 := State.ended_statusWord herr

/-- The ciphertext block i in memory at the end of a call (R178). -/
theorem State.called_bytes (hcs : ∀ c ∈ cs, c.length = 16) (hlen : 16 * cs.length ≤ n) {i : Nat}
    (hi : i < cs.length) :
    cs[i]? = some (Memory.bytes (s.called rk ct n len S r cs).mem (ct + 16 * i) 16) := by
  rw [Memory.bytes_storeBlocks (m := s.mem) (a := ct) hcs hi]
  refine congrArg some (Memory.bytes_congr fun j hj => Memory.byte_congr ?_).symm
  exact spoil_read_outside _ _ _ (.inl (by omega))

/-- Memory outside the ciphertext region at the end of a call (R178). -/
theorem State.called_unchangedOutside (hcs : ∀ c ∈ cs, c.length = 16) (hlen : 16 * cs.length ≤ n) :
    UnchangedOutside s (s.called rk ct n len S r cs) ct (n + len) := by
  intro x hx
  refine (spoil_read_outside _ _ _ (by omega)).trans ?_
  exact Memory.read_storeBlocks_outside hcs (by omega)

end

end Sys2Proof.Machine
end

section
/-! The statements of a whole call (44_cbc_controller.md section 5, 30_encoding.md section 5). -/

namespace Sys2Proof.Machine

/-- Settles O34: the call's words lead there, and memory is read off the blocks stored. -/
theorem callEndState : Obligations.CallEndState := by
  intro s pt n key iv ct kb ivb ps hinv h
  obtain ⟨S, r, hrun⟩ := h.run_eq hinv
  have herr : s.err = 0#4 := hinv.consistent.err_zero (.inl (by rw [h.at_chk]; decide))
  have hcs := cbcBlocks_block_length h.schedule_length ivb ps
  have hlen : (cbcBlocks (keyexp kb) ivb ps).length = n / 16 := by rw [cbcBlocks_length, h.n_blocks]
  exact ⟨_, hrun, s.called_statusWord S r herr, s.called_frame S r,
    fun i hi => s.called_bytes S r hcs (by omega) (by rwa [hlen]),
    s.called_unchangedOutside S r hcs (by omega)⟩

/-- Settles O37: both calls store the CBC blocks of the same bytes. -/
theorem callDeterminism : Obligations.CallDeterminism := by
  intro s s' pt pt' n key key' iv iv' ct ct' kb ivb ps hinv hinv' h h'
  obtain ⟨t, hrun, -, -, hblocks, -⟩ := callEndState s pt n key iv ct kb ivb ps hinv h
  obtain ⟨t', hrun', -, -, hblocks', -⟩ := callEndState s' pt' n key' iv' ct' kb ivb ps hinv' h'
  exact ⟨t, t', hrun, hrun', Memory.bytes_eq_of_blocks h.whole_blocks fun i hi =>
    Option.some.inj ((hblocks i hi).symm.trans (hblocks' i hi))⟩

/-- Settles O40: the words of a call by `Issues`; and a raise puts FIN next. -/
theorem callIssuesFixedOrder : Obligations.CallIssuesFixedOrder := by
  refine ⟨fun s pt n key iv ct kb ivb ps hinv h => ?_, fun s t hs hchk ht => ?_,
    fun s t turn level h2 h9 hstep => ?_⟩
  · obtain ⟨S, r, hcall⟩ := h.issues_callWords hinv
    have hlen := callWords_length (n / 16)
    exact ⟨hlen, fun j hj => hcall.getElem?_eq (by rwa [hlen]), _, hlen ▸ hcall.run_eq,
      State.ended_ph _⟩
  · rw [execChk_eq_raise_of_err hs hchk ht]
    exact issued_of_ph (op := Op.fin) rfl (by decide)
  · rw [envFail_step_cases turn level ⟨h2, h9⟩ hstep]
    exact issued_of_ph (op := Op.fin) rfl (by decide)

end Sys2Proof.Machine
end
